-- ==== Sys2Proof/Word.lean ====
section
/-! DEFINITION. The value types of the machine (`10_state.md` R20, `00_scope.md` R10, R11): every register
value is an unsigned bit vector, a register number is an index below 16. -/

namespace Sys2Proof

/-- An 8-bit value: a V register, a timer, a byte of memory (R20). -/
abbrev Byte := BitVec 8

/-- A 16-bit value: PC, I, a stack entry, an instruction word (R20, R90). -/
abbrev Word := BitVec 16

/-- The number of a general register V0 to VF (R21). -/
abbrev Reg := Fin 16

/-- The keypad latch: bit k is key k, 1 = pressed (R34). -/
abbrev Keys := BitVec 16

/-- The display: 32 rows, row y from the top; bit x of a row is column x from the left, 1 = on (R33).
So bit x of row y is the pixel of linear index `y * 64 + x`. -/
abbrev Display := Vector (BitVec 64) 32

end Sys2Proof
end

