-- ==== Sys2Proof/Config.lean ====
section
/-! DEFINITION. What is fixed for the machine: the parameter values of `00_scope.md` R6, the two open
parameters of R7 and R8, and the two free inputs of R9. The open ones are constants without a body: no
proof can see their value, so every statement holds for all of them. -/

namespace Sys2Proof

/-- `MEM_SIZE` (R6): the bytes of memory, addresses 0x000 to 0xFFF. -/
@[simp] abbrev Config.memSize : Nat := 4096

/-- `PROG_BASE` (R6): the PC at reset and the offset the ROM is loaded at. -/
@[simp] abbrev Config.progBase : Nat := 0x200

/-- `FONT_BASE` (R6, R69). -/
@[simp] abbrev Config.fontBase : Nat := 0

/-- `FONT_GLYPH_BYTES` (R6): the bytes of one digit's sprite. -/
@[simp] abbrev Config.fontGlyphBytes : Nat := 5

/-- `FONT_GLYPHS` times `FONT_GLYPH_BYTES` (R6): the bytes of the font. -/
@[simp] abbrev Config.fontBytes : Nat := 80

/-- `STACK_DEPTH` (R6): the entries of the call stack. -/
@[simp] abbrev Config.stackDepth : Nat := 16

/-- `DISP_W` (R6). -/
@[simp] abbrev Config.dispW : Nat := 64

/-- `DISP_H` (R6). -/
@[simp] abbrev Config.dispH : Nat := 32

/-- `NUM_KEYS` (R6). -/
@[simp] abbrev Config.numKeys : Nat := 16

/-- `FONT` (R8), an open parameter: byte k, for k below 80, of the sixteen digit sprites. The source does
not give the bytes (N1), so they have no value here (log entry 1). -/
opaque Config.font : Nat → Byte

/-- The conventional CHIP-8 font of R8, 5 bytes a digit: NOT normative and not used by the machine. A claim
about what a digit looks like takes `Config.FontIsConventional` as a premise (D2, N1). -/
def Config.conventionalFont : List Byte :=
  [0xF0, 0x90, 0x90, 0x90, 0xF0, 0x20, 0x60, 0x20, 0x20, 0x70] ++
  [0xF0, 0x10, 0xF0, 0x80, 0xF0, 0xF0, 0x10, 0xF0, 0x10, 0xF0] ++
  [0x90, 0x90, 0xF0, 0x10, 0x10, 0xF0, 0x80, 0xF0, 0x10, 0xF0] ++
  [0xF0, 0x80, 0xF0, 0x90, 0xF0, 0xF0, 0x10, 0x20, 0x40, 0x40] ++
  [0xF0, 0x90, 0xF0, 0x90, 0xF0, 0xF0, 0x90, 0xF0, 0x10, 0xF0] ++
  [0xF0, 0x90, 0xF0, 0x90, 0x90, 0xE0, 0x90, 0xE0, 0x90, 0xE0] ++
  [0xF0, 0x80, 0x80, 0x80, 0xF0, 0xE0, 0x90, 0x90, 0x90, 0xE0] ++
  [0xF0, 0x80, 0xF0, 0x80, 0xF0, 0xF0, 0x80, 0xF0, 0x80, 0x80]

/-- The premise that the open font is the conventional one of R8. Nothing in the model assumes it. -/
def Config.FontIsConventional : Prop :=
  ∀ k, k < Config.fontBytes → some (Config.font k) = Config.conventionalFont[k]?

/-- `P_CYCLES_PER_TICK` less one: an open count (R7, log entry 2). -/
opaque Config.cyclesPerTickPred : Nat

/-- `P_CYCLES_PER_TICK` (R7): the steps from one tick to the next, a positive integer the source leaves open. -/
def Config.cyclesPerTick : Nat := Config.cyclesPerTickPred + 1

/-- `rand_in` (R9, R36): the n-th random byte the environment supplies. A free draw: no generator, no law
(R181, D20, log entry 3). -/
opaque Config.randIn : Nat → Byte

/-- `keys_in` (R9, R36): the key snapshot the environment supplies at the n-th tick, bit k for key k. A free
input (R283, D18, log entry 4). -/
opaque Config.keysIn : Nat → Keys

end Sys2Proof
end

