-- ==== Sys2Proof/Syntax.lean ====
section
/-! DEFINITION. The instructions: one constructor per row of the opcode map (`30_encoding.md` R96), in the
map's order, holding the operands of the row's rule. -/

namespace Sys2Proof

/-- The 34 instructions of R96. A register field x or y is a `Reg`, nn a byte, n the sprite height below 16.
The 12-bit field nnn is held as R92 assembles it, widened to 16 bits; `Instr.wellFormed` says it is below 4096.
A field that the rule ignores (n of 5XYN and 9XYN, y of 8XY6 and 8XYE) is no operand. -/
inductive Instr where
  | cls                                 -- 00E0
  | ret                                 -- 00EE
  | jp (nnn : Word)                     -- 1NNN
  | call (nnn : Word)                   -- 2NNN
  | seImm (x : Reg) (nn : Byte)         -- 3XNN
  | sneImm (x : Reg) (nn : Byte)        -- 4XNN
  | seReg (x y : Reg)                   -- 5XYN
  | ldImm (x : Reg) (nn : Byte)         -- 6XNN
  | addImm (x : Reg) (nn : Byte)        -- 7XNN
  | ldReg (x y : Reg)                   -- 8XY0
  | orReg (x y : Reg)                   -- 8XY1
  | andReg (x y : Reg)                  -- 8XY2
  | xorReg (x y : Reg)                  -- 8XY3
  | addReg (x y : Reg)                  -- 8XY4
  | sub (x y : Reg)                     -- 8XY5
  | shr (x : Reg)                       -- 8XY6
  | subn (x y : Reg)                    -- 8XY7
  | shl (x : Reg)                       -- 8XYE
  | sneReg (x y : Reg)                  -- 9XYN
  | ldI (nnn : Word)                    -- ANNN
  | jpV0 (nnn : Word)                   -- BNNN
  | rnd (x : Reg) (nn : Byte)           -- CXNN
  | drw (x y : Reg) (n : Fin 16)        -- DXYN
  | skp (x : Reg)                       -- EX9E
  | sknp (x : Reg)                      -- EXA1
  | ldVxDt (x : Reg)                    -- FX07
  | ldVxK (x : Reg)                     -- FX0A
  | ldDt (x : Reg)                      -- FX15
  | ldSt (x : Reg)                      -- FX18
  | addI (x : Reg)                      -- FX1E
  | ldF (x : Reg)                       -- FX29
  | ldB (x : Reg)                       -- FX33
  | ldMemStore (x : Reg)                -- FX55
  | ldMemLoad (x : Reg)                 -- FX65
  deriving DecidableEq, Repr

end Sys2Proof
end

