-- ==== Sys2Proof/WellFormed.lean ====
section
/-! DEFINITION. Which instruction terms stand for an instruction word: the 12-bit operand nnn, held widened to
16 bits, is an address 0 to 4095 (`30_encoding.md` R92). Every other operand is in range by its type. -/

namespace Sys2Proof

/-- nnn "is a 12-bit address, 0 to 4095" (R92). -/
def nnnInRange (nnn : Word) : Bool := decide (nnn.toNat < 4096)

/-- The operands are ones an encoding can hold (R91, R92). -/
def Instr.wellFormed : Instr → Bool
  | .jp nnn => nnnInRange nnn
  | .call nnn => nnnInRange nnn
  | .ldI nnn => nnnInRange nnn
  | .jpV0 nnn => nnnInRange nnn
  | .cls => true
  | .ret => true
  | .seImm _ _ => true
  | .sneImm _ _ => true
  | .seReg _ _ => true
  | .ldImm _ _ => true
  | .addImm _ _ => true
  | .ldReg _ _ => true
  | .orReg _ _ => true
  | .andReg _ _ => true
  | .xorReg _ _ => true
  | .addReg _ _ => true
  | .sub _ _ => true
  | .shr _ => true
  | .subn _ _ => true
  | .shl _ => true
  | .sneReg _ _ => true
  | .rnd _ _ => true
  | .drw _ _ _ => true
  | .skp _ => true
  | .sknp _ => true
  | .ldVxDt _ => true
  | .ldVxK _ => true
  | .ldDt _ => true
  | .ldSt _ => true
  | .addI _ => true
  | .ldF _ => true
  | .ldB _ => true
  | .ldMemStore _ => true
  | .ldMemLoad _ => true

end Sys2Proof
end

