-- ==== Sys2Proof/Decode.lean ====
section
/-! DEFINITION. The decoder and the encoder (`30_encoding.md`). Decoding is total: a word is one of the 34
instructions with its fields, or is named as unrecognized (R99). -/

namespace Sys2Proof

/-! ## The fields of an instruction word (R91) -/

/-- `instr[15:12]`. -/
def fieldOp (w : Word) : BitVec 4 := w.extractLsb' 12 4

/-- `instr[11:8]`. -/
def fieldX (w : Word) : Reg := (w.extractLsb' 8 4).toFin

/-- `instr[7:4]`. -/
def fieldY (w : Word) : Reg := (w.extractLsb' 4 4).toFin

/-- `instr[3:0]`. -/
def fieldN (w : Word) : Fin 16 := (w.extractLsb' 0 4).toFin

/-- `instr[7:0]`. -/
def fieldNN (w : Word) : Byte := w.extractLsb' 0 8

/-- `instr[11:0]`, widened to 16 bits (R92). -/
def fieldNNN (w : Word) : Word := (w.extractLsb' 0 12).setWidth 16

/-! ## Decoding -/

/-- What a word decodes to (R99). -/
inductive Decoded where
  | instr (i : Instr)
  | unrecognized (w : Word)
  deriving DecidableEq, Repr

/-- Group 0 matches the whole word (R94). -/
def decodeGroup0 (w : Word) : Decoded :=
  if w = 0x00E0#16 then .instr .cls
  else if w = 0x00EE#16 then .instr .ret
  else .unrecognized w

/-- Group 8 dispatches on n (R94). -/
def decodeGroup8 (w : Word) : Decoded :=
  match (fieldN w).val with
  | 0x0 => .instr (.ldReg (fieldX w) (fieldY w))
  | 0x1 => .instr (.orReg (fieldX w) (fieldY w))
  | 0x2 => .instr (.andReg (fieldX w) (fieldY w))
  | 0x3 => .instr (.xorReg (fieldX w) (fieldY w))
  | 0x4 => .instr (.addReg (fieldX w) (fieldY w))
  | 0x5 => .instr (.sub (fieldX w) (fieldY w))
  | 0x6 => .instr (.shr (fieldX w))
  | 0x7 => .instr (.subn (fieldX w) (fieldY w))
  | 0xE => .instr (.shl (fieldX w))
  | _ => .unrecognized w

/-- Group E dispatches on nn (R94). -/
def decodeGroupE (w : Word) : Decoded :=
  if fieldNN w = 0x9E#8 then .instr (.skp (fieldX w))
  else if fieldNN w = 0xA1#8 then .instr (.sknp (fieldX w))
  else .unrecognized w

/-- Group F dispatches on nn (R94). -/
def decodeGroupF (w : Word) : Decoded :=
  if fieldNN w = 0x07#8 then .instr (.ldVxDt (fieldX w))
  else if fieldNN w = 0x0A#8 then .instr (.ldVxK (fieldX w))
  else if fieldNN w = 0x15#8 then .instr (.ldDt (fieldX w))
  else if fieldNN w = 0x18#8 then .instr (.ldSt (fieldX w))
  else if fieldNN w = 0x1E#8 then .instr (.addI (fieldX w))
  else if fieldNN w = 0x29#8 then .instr (.ldF (fieldX w))
  else if fieldNN w = 0x33#8 then .instr (.ldB (fieldX w))
  else if fieldNN w = 0x55#8 then .instr (.ldMemStore (fieldX w))
  else if fieldNN w = 0x65#8 then .instr (.ldMemLoad (fieldX w))
  else .unrecognized w

/-- First-level dispatch is on the leading nibble (R93); groups 0, 8, E and F dispatch again (R94); groups 5
and 9 ignore the low nibble (R95, D9). -/
def decode (w : Word) : Decoded :=
  match (fieldOp w).toNat with
  | 0x0 => decodeGroup0 w
  | 0x1 => .instr (.jp (fieldNNN w))
  | 0x2 => .instr (.call (fieldNNN w))
  | 0x3 => .instr (.seImm (fieldX w) (fieldNN w))
  | 0x4 => .instr (.sneImm (fieldX w) (fieldNN w))
  | 0x5 => .instr (.seReg (fieldX w) (fieldY w))
  | 0x6 => .instr (.ldImm (fieldX w) (fieldNN w))
  | 0x7 => .instr (.addImm (fieldX w) (fieldNN w))
  | 0x8 => decodeGroup8 w
  | 0x9 => .instr (.sneReg (fieldX w) (fieldY w))
  | 0xA => .instr (.ldI (fieldNNN w))
  | 0xB => .instr (.jpV0 (fieldNNN w))
  | 0xC => .instr (.rnd (fieldX w) (fieldNN w))
  | 0xD => .instr (.drw (fieldX w) (fieldY w) (fieldN w))
  | 0xE => decodeGroupE w
  | _ => decodeGroupF w

/-! ## Bytes and words (R64, R90) -/

/-- The word of two bytes, high byte first: `instr = hi<<8 | lo` (R64, R121). -/
def wordOfBytes (hi lo : Byte) : Word := hi ++ lo

/-- The high byte of a word, the one stored at the lower address (R64). -/
def highByte (w : Word) : Byte := w.extractLsb' 8 8

/-- The low byte of a word, the one stored at the higher address (R64). -/
def lowByte (w : Word) : Byte := w.extractLsb' 0 8

/-- Why a byte sequence gives no word: every instruction is two bytes (R90). -/
inductive DecodeError where
  | truncated
  deriving DecidableEq, Repr

/-- Decode the first two bytes of a sequence and give the rest back: "a decoder always consumes exactly 2
bytes" (R90). Fewer than two bytes are rejected by name. -/
def decodeBytes : List Byte → Except DecodeError (Decoded × List Byte)
  | hi :: lo :: rest => .ok (decode (wordOfBytes hi lo), rest)
  | _ => .error .truncated

/-- An instruction's bits as `opcode_table.json` numbers them: w's low nbits bits, the rest 0. -/
def tableWord (nbits w : Nat) : Word := BitVec.ofNat 16 (w % 2 ^ nbits)

/-- The instruction the decoder reads from the bytes the hardware would hold for that word. -/
def decodeTableWord (nbits w : Nat) : Option Instr :=
  match decodeBytes [highByte (tableWord nbits w), lowByte (tableWord nbits w)] with
  | .ok (.instr i, _) => some i
  | _ => none

/-! ## Encoding (R91, R96) -/

/-- A register number as a nibble. -/
def regBits (x : Fin 16) : BitVec 4 := BitVec.ofFin x

/-- op, x, nn. -/
def packXNN (op : BitVec 4) (x : Reg) (nn : Byte) : Word := op ++ regBits x ++ nn

/-- op, x, y, n. -/
def packXYN (op : BitVec 4) (x y : Reg) (n : Fin 16) : Word := op ++ regBits x ++ regBits y ++ regBits n

/-- op, nnn: of the widened operand its low 12 bits, all of it where it is well formed. -/
def packNNN (op : BitVec 4) (nnn : Word) : Word := op ++ nnn.extractLsb' 0 12

/-- The word of an instruction, by the patterns of R96; an ignored field is encoded as 0, as the spec's
listings do for 5XY0 and 9XY0 (R101). -/
def encode : Instr → Word
  | .cls => 0x00E0#16
  | .ret => 0x00EE#16
  | .jp nnn => packNNN 0x1#4 nnn
  | .call nnn => packNNN 0x2#4 nnn
  | .seImm x nn => packXNN 0x3#4 x nn
  | .sneImm x nn => packXNN 0x4#4 x nn
  | .seReg x y => packXYN 0x5#4 x y 0
  | .ldImm x nn => packXNN 0x6#4 x nn
  | .addImm x nn => packXNN 0x7#4 x nn
  | .ldReg x y => packXYN 0x8#4 x y 0x0
  | .orReg x y => packXYN 0x8#4 x y 0x1
  | .andReg x y => packXYN 0x8#4 x y 0x2
  | .xorReg x y => packXYN 0x8#4 x y 0x3
  | .addReg x y => packXYN 0x8#4 x y 0x4
  | .sub x y => packXYN 0x8#4 x y 0x5
  | .shr x => packXYN 0x8#4 x 0 0x6
  | .subn x y => packXYN 0x8#4 x y 0x7
  | .shl x => packXYN 0x8#4 x 0 0xE
  | .sneReg x y => packXYN 0x9#4 x y 0
  | .ldI nnn => packNNN 0xA#4 nnn
  | .jpV0 nnn => packNNN 0xB#4 nnn
  | .rnd x nn => packXNN 0xC#4 x nn
  | .drw x y n => packXYN 0xD#4 x y n
  | .skp x => packXNN 0xE#4 x 0x9E#8
  | .sknp x => packXNN 0xE#4 x 0xA1#8
  | .ldVxDt x => packXNN 0xF#4 x 0x07#8
  | .ldVxK x => packXNN 0xF#4 x 0x0A#8
  | .ldDt x => packXNN 0xF#4 x 0x15#8
  | .ldSt x => packXNN 0xF#4 x 0x18#8
  | .addI x => packXNN 0xF#4 x 0x1E#8
  | .ldF x => packXNN 0xF#4 x 0x29#8
  | .ldB x => packXNN 0xF#4 x 0x33#8
  | .ldMemStore x => packXNN 0xF#4 x 0x55#8
  | .ldMemLoad x => packXNN 0xF#4 x 0x65#8

/-- The two bytes of an instruction as memory holds them, high byte first (R64, R90). -/
def encodeBytes (i : Instr) : List Byte := [highByte (encode i), lowByte (encode i)]

/-- The mask and match of an instruction's row in the opcode map (R96). -/
def opcodeRow : Instr → Word × Word
  | .cls => (0xFFFF#16, 0x00E0#16)
  | .ret => (0xFFFF#16, 0x00EE#16)
  | .jp _ => (0xF000#16, 0x1000#16)
  | .call _ => (0xF000#16, 0x2000#16)
  | .seImm _ _ => (0xF000#16, 0x3000#16)
  | .sneImm _ _ => (0xF000#16, 0x4000#16)
  | .seReg _ _ => (0xF000#16, 0x5000#16)
  | .ldImm _ _ => (0xF000#16, 0x6000#16)
  | .addImm _ _ => (0xF000#16, 0x7000#16)
  | .ldReg _ _ => (0xF00F#16, 0x8000#16)
  | .orReg _ _ => (0xF00F#16, 0x8001#16)
  | .andReg _ _ => (0xF00F#16, 0x8002#16)
  | .xorReg _ _ => (0xF00F#16, 0x8003#16)
  | .addReg _ _ => (0xF00F#16, 0x8004#16)
  | .sub _ _ => (0xF00F#16, 0x8005#16)
  | .shr _ => (0xF00F#16, 0x8006#16)
  | .subn _ _ => (0xF00F#16, 0x8007#16)
  | .shl _ => (0xF00F#16, 0x800E#16)
  | .sneReg _ _ => (0xF000#16, 0x9000#16)
  | .ldI _ => (0xF000#16, 0xA000#16)
  | .jpV0 _ => (0xF000#16, 0xB000#16)
  | .rnd _ _ => (0xF000#16, 0xC000#16)
  | .drw _ _ _ => (0xF000#16, 0xD000#16)
  | .skp _ => (0xF0FF#16, 0xE09E#16)
  | .sknp _ => (0xF0FF#16, 0xE0A1#16)
  | .ldVxDt _ => (0xF0FF#16, 0xF007#16)
  | .ldVxK _ => (0xF0FF#16, 0xF00A#16)
  | .ldDt _ => (0xF0FF#16, 0xF015#16)
  | .ldSt _ => (0xF0FF#16, 0xF018#16)
  | .addI _ => (0xF0FF#16, 0xF01E#16)
  | .ldF _ => (0xF0FF#16, 0xF029#16)
  | .ldB _ => (0xF0FF#16, 0xF033#16)
  | .ldMemStore _ => (0xF0FF#16, 0xF055#16)
  | .ldMemLoad _ => (0xF0FF#16, 0xF065#16)

end Sys2Proof
end

