-- ==== Sys2Proof/Machine/State.lean ====
section
/-! DEFINITION. The state of the machine as plain data (`10_state.md` R20, R36) and its value after reset
(R37). -/

namespace Sys2Proof.Machine

/-- The faults of `60_exceptions.md` R270, each with the info it records. A fault is fatal and precise (R272):
the machine enters it by writing STATUS and nothing else, which is a next state (log entry 5), so no step
answers `Host.Outcome.fault`. -/
inductive Fault where
  /-- Raised by the fetch, DXYN, FX33, FX55 and FX65 on an access at an address of 4096 or more, the lowest such
  address of the access sequence (R271, R275). Safe: it is the spec's own fault. -/
  | memoryFault (addr : Nat)
  /-- Raised by 2NNN with SP = 16; records SP (R142). Safe: it is the spec's own fault. -/
  | stackOverflow (sp : Nat)
  /-- Raised by 00EE with SP = 0; records SP (R140). Safe: it is the spec's own fault. -/
  | stackUnderflow (sp : Nat)
  /-- Raised by EX9E and EXA1 with V[x] of 16 or more; records V[x] (R250, R251, D15). Safe: the spec says the
  choice errs toward unprovable. -/
  | keyIndexFault (index : Byte)
  deriving DecidableEq, Repr

/-- Why a step has no answer. No instruction of this model is refused. -/
inductive Refusal where
  /-- Raised by `exec` alone, for an instruction that has no meaning yet; every instruction has one, so it is
  never raised. Safe. -/
  | notModelled (mnemonic : String)
  deriving DecidableEq, Repr

/-- STATUS (R20): running, or stopped for good by a fault, with the PC of the instruction that raised it
(R270). -/
inductive Status where
  | running
  | faulted (fault : Fault) (pc : Word)
  deriving DecidableEq, Repr

/-- One diagnostic event (R288): the unrecognized word and the PC it was fetched from. -/
structure DiagEvent where
  word : Word
  pc : Word
  deriving DecidableEq, Repr

/-- Memory: the bytes that differ from what an unlisted address reads as, by strictly rising address. -/
abbrev Memory := List Host.Cell

/-- The state record of R20, the outputs of R36 that hold a value between steps, and the two counters of
environment draws, which are the model's own. -/
@[ext]
structure State where
  /-- MEM (R60). -/
  mem : Memory
  /-- V0 to VF (R21). -/
  v : Vector Byte 16
  /-- The index register I (R25). -/
  i : Word
  /-- The program counter (R26). -/
  pc : Word
  /-- SP, the number of entries on the call stack, 0 to 16 (R29, log entry 6). -/
  sp : Fin 17
  /-- The call stack (R30). -/
  stack : Vector Word 16
  /-- The delay timer DT (R31). -/
  dt : Byte
  /-- The sound timer ST (R32). -/
  st : Byte
  /-- The display buffer DISP (R33). -/
  disp : Display
  /-- The keypad latch KEYS (R34). -/
  keys : Keys
  /-- STEPCNT, the steps since the last tick (R278). -/
  stepCnt : Nat
  /-- STATUS (R272). -/
  status : Status
  /-- The output `fb_out`: the display as the last tick presented it (R282, log entry 9). -/
  fbOut : Display
  /-- The output `sound_on` as the last tick set it (R281, log entry 9). -/
  soundOn : Bool
  /-- The output `diag`: its events, oldest first (R288, log entry 8). -/
  diag : List DiagEvent
  /-- The model's own: how many bytes of `rand_in` have been consumed (R181, log entry 3). -/
  randDraws : Nat
  /-- The model's own: how many snapshots of `keys_in` have been latched (R283, log entry 4). -/
  keyDraws : Nat
  deriving DecidableEq, Repr

/-- The machine right after reset (R37, R300). Memory lists nothing: an unlisted address reads as the reset
contents, the font and then zero (`Memory.unlisted`). -/
def State.reset : State where
  mem := []
  v := Vector.replicate 16 0
  i := 0
  pc := 0x200
  sp := 0
  stack := Vector.replicate 16 0
  dt := 0
  st := 0
  disp := Vector.replicate 32 0
  keys := 0
  stepCnt := 0
  status := .running
  fbOut := Vector.replicate 32 0
  soundOn := false
  diag := []
  randDraws := 0
  keyDraws := 0

end Sys2Proof.Machine
end

