-- ==== Sys2Proof/Machine/Ops.lean ====
section
/-! DEFINITION. The named operations every meaning is built from: memory, registers, the ways to set the next
PC, and entering a fault (`00_scope.md` R12). -/

namespace Sys2Proof.Machine

/-! ## Memory as a list of cells -/

/-- What an address that no cell lists reads as: the reset contents, the font at 0x000 to 0x04F and 0 above
(R37, R68). -/
def Memory.unlisted (a : Nat) : Byte :=
  if a < Config.fontBytes then Config.font a else 0

/-- The byte at an address. -/
def Memory.get : Memory → Nat → Byte
  | [], a => Memory.unlisted a
  | (b, w) :: m, a => if a = b then w else Memory.get m a

/-- The cell for a byte, or none where the address reads as that byte unlisted. -/
def Memory.cell (a : Nat) (v : Byte) (m : Memory) : Memory :=
  if v = Memory.unlisted a then m else (a, v) :: m

/-- Write a byte, keeping addresses rising and no cell that equals what its address reads as unlisted. -/
def Memory.set : Memory → Nat → Byte → Memory
  | [], a, v => Memory.cell a v []
  | (b, w) :: m, a, v =>
    if a < b then Memory.cell a v ((b, w) :: m)
    else if a = b then Memory.cell a v m
    else (b, w) :: Memory.set m a v

/-- The canonical form from an address up: every cell is at or above `lo`, inside memory, differs from its
unlisted value, and the later cells lie above it. -/
def Memory.wfFrom : Nat → Memory → Bool
  | _, [] => true
  | lo, (a, v) :: m =>
    decide (lo ≤ a) && decide (a < Config.memSize) && decide (v ≠ Memory.unlisted a) && Memory.wfFrom (a + 1) m

/-- The canonical form of a memory. -/
def Memory.wf (m : Memory) : Bool := Memory.wfFrom 0 m

/-! ## Access to memory -/

/-- Replace memory. -/
def State.setMem (s : State) (m : Memory) : State := { s with mem := m }

/-- `MemRead(addr, 1)` (R61): the address is an integer, not reduced (R63). -/
def State.memRead (s : State) (a : Nat) : Except Fault Byte :=
  if Config.memSize ≤ a then .error (.memoryFault a) else .ok (s.mem.get a)

/-- `MemWrite(addr, 1, v)` (R62). -/
def State.memWrite (s : State) (a : Nat) (v : Byte) : Except Fault State :=
  if Config.memSize ≤ a then .error (.memoryFault a) else .ok (s.setMem (s.mem.set a v))

/-- Read n bytes from an address up, one at a time (R66); the first failing read raises its fault (R275). -/
def State.readBytes (s : State) : Nat → Nat → Except Fault (List Byte)
  | _, 0 => .ok []
  | a, n + 1 =>
    match s.memRead a with
    | .error f => .error f
    | .ok b =>
      match s.readBytes (a + 1) n with
      | .error f => .error f
      | .ok bs => .ok (b :: bs)

/-- Write bytes from an address up, one at a time (R66). The first failing write raises its fault, and with it
the earlier ones come to nothing: checks come before any write (R272). -/
def State.writeBytes : State → Nat → List Byte → Except Fault State
  | s, _, [] => .ok s
  | s, a, b :: bs =>
    match s.memWrite a b with
    | .error f => .error f
    | .ok t => t.writeBytes (a + 1) bs

/-! ## Registers -/

/-- `V[x]` (R21). -/
def State.getV (s : State) (x : Reg) : Byte := s.v.get x

/-- `V[x] <- b` (R21). -/
def State.setV (s : State) (x : Reg) (b : Byte) : State := { s with v := s.v.set x.val b x.isLt }

/-- `V[k] <- b` for the bytes of a list, k counting up from a start (R205). A number past 15 names no register. -/
def State.setVs : State → Nat → List Byte → State
  | s, _, [] => s
  | s, k, b :: bs => State.setVs (if h : k < 16 then s.setV ⟨k, h⟩ b else s) (k + 1) bs

/-- V0 to Vx inclusive, in order (R204). -/
def State.getVs (s : State) (x : Reg) : List Byte := s.v.toList.take (x.val + 1)

/-- `I <- a` (R25). -/
def State.setI (s : State) (a : Word) : State := { s with i := a }

/-- `DT <- b` (R31). -/
def State.setDt (s : State) (b : Byte) : State := { s with dt := b }

/-- `ST <- b` (R32). -/
def State.setSt (s : State) (b : Byte) : State := { s with st := b }

/-- Write the display buffer (R33). -/
def State.setDisp (s : State) (d : Display) : State := { s with disp := d }

/-! ## The next PC (R123) -/

/-- `PC <- a`, the explicit class. -/
def State.jump (s : State) (a : Word) : State := { s with pc := a }

/-- `next`: `PC <- (PC + 2) mod 65536` (R12, R28). -/
def State.advance (s : State) : State := s.jump (s.pc + 2)

/-- `skip`: `PC <- (PC + 4) mod 65536` (R12). -/
def State.skip (s : State) : State := s.jump (s.pc + 4)

/-- `if c then skip else next`, the skip class (R123). -/
def State.skipIf (s : State) (c : Bool) : State := if c then s.skip else s.advance

/-! ## The call stack -/

/-- Replace the call stack and SP. -/
def State.setStack (s : State) (k : Vector Word 16) (n : Fin 17) : State := { s with stack := k, sp := n }

/-- `STACK[SP] <- a; SP <- SP + 1`, where SP is not 16; StackFault(overflow) where it is (R142, R29). -/
def State.push (s : State) (a : Word) : Except Fault State :=
  if h : s.sp.val < 16 then
    .ok (s.setStack (s.stack.set s.sp.val a h) ⟨s.sp.val + 1, Nat.succ_lt_succ h⟩)
  else .error (.stackOverflow s.sp.val)

/-- `SP <- SP - 1`, giving STACK[SP], where SP is not 0; StackFault(underflow) where it is (R140, R29). The
entry keeps its value (R30). -/
def State.pop (s : State) : Except Fault (Word × State) :=
  if h : s.sp.val = 0 then .error (.stackUnderflow s.sp.val)
  else
    have lt : s.sp.val - 1 < 16 := by have := s.sp.isLt; omega
    .ok (s.stack[s.sp.val - 1], s.setStack s.stack ⟨s.sp.val - 1, Nat.lt_succ_of_lt lt⟩)

/-! ## Faults and diagnostics -/

/-- The numeric code of a fault (R270). -/
def Fault.code : Fault → Nat
  | .memoryFault _ => 1
  | .stackOverflow _ => 2
  | .stackUnderflow _ => 3
  | .keyIndexFault _ => 4

/-- The info a fault records (R270). -/
def Fault.info : Fault → Nat
  | .memoryFault a => a
  | .stackOverflow sp => sp
  | .stackUnderflow sp => sp
  | .keyIndexFault b => b.toNat

/-- Fault entry (R272): `STATUS <- Faulted(code, info, pc)` and no other change; nothing is saved and control
goes nowhere. There is no return from a fault (R274): only a new session leaves it (`State.resetSession`). -/
def State.takeFault (s : State) (f : Fault) : State := { s with status := .faulted f s.pc }

/-- End an instruction's execution: its result where no fault was raised, and else the state it started in with
the fault entered (R272). Both are next states. -/
def State.conclude (s : State) : Except Fault State → Host.Outcome State Fault Refusal
  | .ok t => .next t
  | .error f => .next (s.takeFault f)

/-- `Diag(opcode, pc)` (R12, R288): one more event on the diagnostic output. -/
def State.emitDiag (s : State) (w : Word) : State := { s with diag := s.diag ++ [⟨w, s.pc⟩] }

/-- One fresh draw of `rand_in` is consumed (R181). -/
def State.consumeRand (s : State) : State := { s with randDraws := s.randDraws + 1 }

end Sys2Proof.Machine
end

