-- ==== Sys2Proof/Machine/Operands.lean ====
section
/-! DEFINITION. The operand forms beyond a plain register or immediate: key indexes, the digits of a byte, the
sprite of a draw and its pixels, and the address of an access through I. -/

namespace Sys2Proof.Machine

/-! ## Keys (R256) -/

/-- `KEY(k)` (R256). -/
def State.key (s : State) (k : Nat) : Bool := s.keys.getLsbD k

/-- The key that a register's value names; an index of 16 or more names none and faults (R250, R251, D15). -/
def State.keyAt (s : State) (a : Byte) : Except Fault Bool :=
  if Config.numKeys ≤ a.toNat then .error (.keyIndexFault a) else .ok (s.key a.toNat)

/-- The smallest pressed key, if any is pressed (R253, D16). -/
def State.firstKey (s : State) : Option Nat := (List.range Config.numKeys).find? (fun k => s.key k)

/-! ## Addresses through I -/

/-- The base address of an access through I, an integer that is never reduced (R63). -/
def State.base (s : State) : Nat := s.i.toNat

/-- The address of a digit's sprite, `a * 5`, not masked to the low nibble (R202, D13). -/
def glyphAddress (a : Byte) : Word := BitVec.ofNat 16 (a.toNat * Config.fontGlyphBytes)

/-! ## Decimal digits (R203) -/

/-- Hundreds, tens and ones of a byte. -/
def bcdDigits (a : Byte) : List Byte :=
  [BitVec.ofNat 8 (a.toNat / 100), BitVec.ofNat 8 (a.toNat / 10 % 10), BitVec.ofNat 8 (a.toNat % 10)]

/-! ## Pixels and sprites (R230, R232) -/

/-- `PIX(x, y)`, both coordinates taken modulo the screen's width and height (R33, R230). -/
def pixel (d : Display) (x y : Nat) : Bool :=
  (d[y % 32]'(Nat.mod_lt y (by decide))).getLsbD (x % 64)

/-- `togglePixel(x, y)` (R230): invert the pixel at (x mod 64, y mod 32), giving the display and whether it was on. -/
def togglePixel (d : Display) (x y : Nat) : Display × Bool :=
  have lt : y % 32 < 32 := Nat.mod_lt y (by decide)
  (d.set (y % 32) (d[y % 32] ^^^ BitVec.twoPow 64 (x % 64)) lt, pixel d x y)

/-- `clear()` (R230): every pixel off. -/
def clearDisplay : Display := Vector.replicate 32 0

/-- The bit of a sprite row that falls on column c of 0 to 7: bit 7 is the leftmost pixel (R232, D14). -/
def spriteBit (row : Byte) (c : Nat) : Bool := row.getLsbD (7 - c)

/-- Draw column c of a sprite row at column x0 and screen row y: toggle the pixel where the sprite bit is set,
and note a pixel that was on (R232). -/
def drawBit (x0 y : Nat) (row : Byte) (acc : Display × Bool) (c : Nat) : Display × Bool :=
  if spriteBit row c then
    ((togglePixel acc.1 (x0 + c) y).1, acc.2 || (togglePixel acc.1 (x0 + c) y).2)
  else acc

/-- Draw the eight columns of one sprite row, left to right (R232). -/
def drawRow (x0 y : Nat) (row : Byte) (acc : Display × Bool) : Display × Bool :=
  (List.range 8).foldl (drawBit x0 y row) acc

/-- Draw the rows of a sprite, top to bottom from screen row y; the display and whether any pixel was turned
off (R232). -/
def drawRows (x0 : Nat) : Nat → List Byte → Display × Bool → Display × Bool
  | _, [], acc => acc
  | y, row :: rows, acc => drawRows x0 (y + 1) rows (drawRow x0 y row acc)

end Sys2Proof.Machine
end

