-- ==== Sys2Proof/Machine/Flags.lean ====
section
/-! DEFINITION. The flag computations of VF, the one flag (`10_state.md` R24, `42_alu.md` R182), and the order
in which a flag and a result are written (`40_execution_cycle.md` R127). -/

namespace Sys2Proof.Machine

/-- VF, the flag register (R22). -/
def vf : Reg := 15

/-- A condition as a flag value, 1 or 0 (R24). -/
def flagOf (c : Bool) : Byte := if c then 1 else 0

/-- The carry of 8XY4: the exact sum exceeds 255 (R176). -/
def carryFlag (a b : Byte) : Byte := flagOf (decide (255 < a.toNat + b.toNat))

/-- The not-borrow flag of 8XY5 and 8XY7: strictly greater, so equal operands give 0 (R177, R179). -/
def greaterFlag (a b : Byte) : Byte := flagOf (decide (b.toNat < a.toNat))

/-- The bit shifted out by 8XY6, bit 0 before the shift (R178). -/
def lowBitFlag (a : Byte) : Byte := a &&& 1

/-- The bit shifted out by 8XYE, bit 7 before the shift (R180). -/
def highBitFlag (a : Byte) : Byte := (a >>> 7) &&& 1

/-- Write the flag and then the result, so that with x = F the result is what VF ends with (R127, D8). -/
def State.setFlagThen (s : State) (flag : Byte) (x : Reg) (result : Byte) : State :=
  (s.setV vf flag).setV x result

end Sys2Proof.Machine
end

