-- ==== Sys2Proof/Machine/Alu.lean ====
section
/-! DEFINITION. The meanings of the register loads and arithmetic (`42_alu.md`). -/

namespace Sys2Proof.Machine

/-- 6XNN (R170). -/
def execLdImm (x : Reg) (nn : Byte) (s : State) : Host.Outcome State Fault Refusal :=
  .next (s.setV x nn).advance

/-- 7XNN (R171): wraps, and writes no flag. -/
def execAddImm (x : Reg) (nn : Byte) (s : State) : Host.Outcome State Fault Refusal :=
  .next (s.setV x (s.getV x + nn)).advance

/-- 8XY0 (R172). -/
def execLdReg (x y : Reg) (s : State) : Host.Outcome State Fault Refusal :=
  .next (s.setV x (s.getV y)).advance

/-- 8XY1 (R173); VF is not reset (D24). -/
def execOr (x y : Reg) (s : State) : Host.Outcome State Fault Refusal :=
  .next (s.setV x (s.getV x ||| s.getV y)).advance

/-- 8XY2 (R174); VF is not reset (D24). -/
def execAnd (x y : Reg) (s : State) : Host.Outcome State Fault Refusal :=
  .next (s.setV x (s.getV x &&& s.getV y)).advance

/-- 8XY3 (R175); VF is not reset (D24). -/
def execXor (x y : Reg) (s : State) : Host.Outcome State Fault Refusal :=
  .next (s.setV x (s.getV x ^^^ s.getV y)).advance

/-- 8XY4 (R176). -/
def execAddReg (x y : Reg) (s : State) : Host.Outcome State Fault Refusal :=
  .next (s.setFlagThen (carryFlag (s.getV x) (s.getV y)) x (s.getV x + s.getV y)).advance

/-- 8XY5 (R177). -/
def execSub (x y : Reg) (s : State) : Host.Outcome State Fault Refusal :=
  .next (s.setFlagThen (greaterFlag (s.getV x) (s.getV y)) x (s.getV x - s.getV y)).advance

/-- 8XY6 (R178): Vx is shifted, the y field is ignored. -/
def execShr (x : Reg) (s : State) : Host.Outcome State Fault Refusal :=
  .next (s.setFlagThen (lowBitFlag (s.getV x)) x (s.getV x >>> 1)).advance

/-- 8XY7 (R179): the destination is Vx (C1). -/
def execSubn (x y : Reg) (s : State) : Host.Outcome State Fault Refusal :=
  .next (s.setFlagThen (greaterFlag (s.getV y) (s.getV x)) x (s.getV y - s.getV x)).advance

/-- 8XYE (R180): Vx is shifted, the y field is ignored. -/
def execShl (x : Reg) (s : State) : Host.Outcome State Fault Refusal :=
  .next (s.setFlagThen (highBitFlag (s.getV x)) x (s.getV x <<< 1)).advance

/-- CXNN with the byte drawn (R181). -/
def rndWith (r : Byte) (x : Reg) (nn : Byte) (s : State) : State :=
  (s.consumeRand.setV x (r &&& nn)).advance

/-- CXNN (R181): the byte is the environment's next draw, a free value (D20). -/
def execRnd (x : Reg) (nn : Byte) (s : State) : Host.Outcome State Fault Refusal :=
  .next (rndWith (Config.randIn s.randDraws) x nn s)

end Sys2Proof.Machine
end

