-- ==== Sys2Proof/Machine/Draw.lean ====
section
/-! DEFINITION. The meanings of the display instructions (`44_display.md`). -/

namespace Sys2Proof.Machine

/-- 00E0 (R231). -/
def execCls (s : State) : Host.Outcome State Fault Refusal :=
  .next (s.setDisp clearDisplay).advance

/-- The state after a sprite's rows are drawn at the coordinates sampled from Vx and Vy, with the collision in
VF, which is written last (R232). -/
def State.drawSprite (s : State) (x y : Reg) (rows : List Byte) : State :=
  let drawn := drawRows (s.getV x).toNat (s.getV y).toNat rows (s.disp, false)
  (s.setDisp drawn.1).setV vf (flagOf drawn.2)

/-- DXYN (R232): all rows are read before any pixel is written, so a fault leaves the display as it was. -/
def execDrw (x y : Reg) (n : Fin 16) (s : State) : Host.Outcome State Fault Refusal :=
  s.conclude <|
    match s.readBytes s.base n.val with
    | .error f => .error f
    | .ok rows => .ok (s.drawSprite x y rows).advance

end Sys2Proof.Machine
end

