-- ==== Sys2Proof/Machine/Flow.lean ====
section
/-! DEFINITION. The meanings of the control-transfer instructions (`41_flow.md`). -/

namespace Sys2Proof.Machine

/-- 00EE (R140). -/
def execRet (s : State) : Host.Outcome State Fault Refusal :=
  s.conclude <|
    match s.pop with
    | .error f => .error f
    | .ok (a, t) => .ok (t.jump a)

/-- 1NNN (R141). -/
def execJp (nnn : Word) (s : State) : Host.Outcome State Fault Refusal :=
  .next (s.jump nnn)

/-- 2NNN (R142): the return address is the next instruction's, PC + 2 (D7, C3). -/
def execCall (nnn : Word) (s : State) : Host.Outcome State Fault Refusal :=
  s.conclude <|
    match s.push (s.pc + 2) with
    | .error f => .error f
    | .ok t => .ok (t.jump nnn)

/-- 3XNN (R143). -/
def execSeImm (x : Reg) (nn : Byte) (s : State) : Host.Outcome State Fault Refusal :=
  .next (s.skipIf (s.getV x == nn))

/-- 4XNN (R144). -/
def execSneImm (x : Reg) (nn : Byte) (s : State) : Host.Outcome State Fault Refusal :=
  .next (s.skipIf (s.getV x != nn))

/-- 5XYN (R145). -/
def execSeReg (x y : Reg) (s : State) : Host.Outcome State Fault Refusal :=
  .next (s.skipIf (s.getV x == s.getV y))

/-- 9XYN (R146). -/
def execSneReg (x y : Reg) (s : State) : Host.Outcome State Fault Refusal :=
  .next (s.skipIf (s.getV x != s.getV y))

/-- BNNN (R147): the sum is not masked to 12 bits (D6). -/
def execJpV0 (nnn : Word) (s : State) : Host.Outcome State Fault Refusal :=
  .next (s.jump (nnn + (s.getV 0).setWidth 16))

end Sys2Proof.Machine
end

