-- ==== Sys2Proof/Machine/Index.lean ====
section
/-! DEFINITION. The meanings of the index-register and memory-transfer instructions (`43_index_memory.md`). -/

namespace Sys2Proof.Machine

/-- ANNN (R200). -/
def execLdI (nnn : Word) (s : State) : Host.Outcome State Fault Refusal :=
  .next (s.setI nnn).advance

/-- FX1E (R201): wraps modulo 65536 and writes no flag (D12). -/
def execAddI (x : Reg) (s : State) : Host.Outcome State Fault Refusal :=
  .next (s.setI (s.i + (s.getV x).setWidth 16)).advance

/-- FX29 (R202). -/
def execLdF (x : Reg) (s : State) : Host.Outcome State Fault Refusal :=
  .next (s.setI (glyphAddress (s.getV x))).advance

/-- FX33 (R203). -/
def execLdB (x : Reg) (s : State) : Host.Outcome State Fault Refusal :=
  s.conclude <|
    match s.writeBytes s.base (bcdDigits (s.getV x)) with
    | .error f => .error f
    | .ok t => .ok t.advance

/-- FX55 (R204): I is unchanged (D11). -/
def execLdMemStore (x : Reg) (s : State) : Host.Outcome State Fault Refusal :=
  s.conclude <|
    match s.writeBytes s.base (s.getVs x) with
    | .error f => .error f
    | .ok t => .ok t.advance

/-- FX65 (R205): I is unchanged (D11). -/
def execLdMemLoad (x : Reg) (s : State) : Host.Outcome State Fault Refusal :=
  s.conclude <|
    match s.readBytes s.base (x.val + 1) with
    | .error f => .error f
    | .ok bs => .ok (s.setVs 0 bs).advance

end Sys2Proof.Machine
end

