-- ==== Sys2Proof/Machine/Keypad.lean ====
section
/-! DEFINITION. The meanings of the keypad and timer instructions (`45_keys_timers.md`). -/

namespace Sys2Proof.Machine

/-- EX9E (R250). -/
def execSkp (x : Reg) (s : State) : Host.Outcome State Fault Refusal :=
  s.conclude <|
    match s.keyAt (s.getV x) with
    | .error f => .error f
    | .ok pressed => .ok (s.skipIf pressed)

/-- EXA1 (R251). -/
def execSknp (x : Reg) (s : State) : Host.Outcome State Fault Refusal :=
  s.conclude <|
    match s.keyAt (s.getV x) with
    | .error f => .error f
    | .ok pressed => .ok (s.skipIf (!pressed))

/-- FX07 (R252). -/
def execLdVxDt (x : Reg) (s : State) : Host.Outcome State Fault Refusal :=
  .next (s.setV x s.dt).advance

/-- FX0A (R253): with no key pressed nothing is written and PC is held, so the next step runs it again. -/
def execLdVxK (x : Reg) (s : State) : Host.Outcome State Fault Refusal :=
  match s.firstKey with
  | some k => .next (s.setV x (BitVec.ofNat 8 k)).advance
  | none => .next s

/-- FX15 (R254). -/
def execLdDt (x : Reg) (s : State) : Host.Outcome State Fault Refusal :=
  .next (s.setDt (s.getV x)).advance

/-- FX18 (R255). -/
def execLdSt (x : Reg) (s : State) : Host.Outcome State Fault Refusal :=
  .next (s.setSt (s.getV x)).advance

end Sys2Proof.Machine
end

