-- ==== Sys2Proof/Machine/Tick.lean ====
section
/-! DEFINITION. The cadence and the tick (`60_exceptions.md` R278 to R283). -/

namespace Sys2Proof.Machine

/-- One step of a countdown timer: a timer at 0 stays at 0 (R280, D18). -/
def countDown (b : Byte) : Byte := if 0 < b.toNat then b - 1 else b

/-- Both timers are decremented (R280). -/
def State.decrementTimers (s : State) : State := { s with dt := countDown s.dt, st := countDown s.st }

/-- `fb_out <- snapshot()` (R282). -/
def State.presentDisplay (s : State) : State := { s with fbOut := s.disp }

/-- `sound_on <- (ST != 0)` (R281). -/
def State.gateAudio (s : State) : State := { s with soundOn := s.st != 0 }

/-- The keypad latch takes the environment's snapshot, which is thereby consumed (R283). -/
def State.latchKeys (s : State) (keysIn : Keys) : State :=
  { s with keys := keysIn, keyDraws := s.keyDraws + 1 }

/-- `tick()`, its four actions in the order of R279. -/
def State.tick (s : State) (keysIn : Keys) : State :=
  s.decrementTimers.presentDisplay.gateAudio.latchKeys keysIn

/-- Cadence counting after a step that did not fault (R278), for a period and the snapshot a tick would
latch. -/
def State.countStep (s : State) (period : Nat) (keysIn : Keys) : State :=
  if s.stepCnt + 1 = period then State.tick { s with stepCnt := 0 } keysIn
  else { s with stepCnt := s.stepCnt + 1 }

/-- What follows an instruction within the step: cadence counting, unless the step faulted (R120, step 4). -/
def State.afterInstr (s : State) (period : Nat) (keysIn : Keys) : State :=
  match s.status with
  | .running => s.countStep period keysIn
  | .faulted _ _ => s

end Sys2Proof.Machine
end

