-- ==== Sys2Proof/Machine/Cycle.lean ====
section
/-! DEFINITION. One step: fetch, decode, execute, count (`40_execution_cycle.md` R120). -/

namespace Sys2Proof.Machine

/-- Fetch (R121): the byte at PC is the high byte, the byte at PC + 1 the low one. PC + 1 is an integer, and PC
is not changed. -/
def State.fetch (s : State) : Except Fault Word :=
  match s.memRead s.pc.toNat with
  | .error f => .error f
  | .ok hi =>
    match s.memRead (s.pc.toNat + 1) with
    | .error f => .error f
    | .ok lo => .ok (wordOfBytes hi lo)

/-- An unrecognized word (R125): a diagnostic, and the next instruction. -/
def execUnrecognized (w : Word) (s : State) : Host.Outcome State Fault Refusal :=
  .next (s.emitDiag w).advance

/-- Execute what a word decodes to (R120, step 3). -/
def execDecoded : Decoded → State → Host.Outcome State Fault Refusal
  | .instr i, s => exec i s
  | .unrecognized w, s => execUnrecognized w s

/-- Count the step that led to an outcome (R120, step 4). -/
def countOutcome (period : Nat) (keysIn : Keys) :
    Host.Outcome State Fault Refusal → Host.Outcome State Fault Refusal
  | .next t => .next (t.afterInstr period keysIn)
  | .fault f => .fault f
  | .refused r => .refused r

/-- One step for a tick period and the key snapshot a tick in this step would latch. It has an effect only
while STATUS is Running (R120, R126). -/
def stepWith (period : Nat) (keysIn : Keys) (s : State) : Host.Outcome State Fault Refusal :=
  match s.status with
  | .faulted _ _ => .next s
  | .running =>
    match s.fetch with
    | .error f => .next (s.takeFault f)
    | .ok w => countOutcome period keysIn (execDecoded (decode w) s)

end Sys2Proof.Machine
end

