-- ==== Sys2Proof/Machine/Ports.lean ====
section
/-! DEFINITION. The transactions and outputs of the core's interface beside `step` (`10_state.md` R36):
`load`, `reset` during a session, `awaiting_key`, and the bits of `fb_out`. -/

namespace Sys2Proof.Machine

/-- Why a load fails (R71). -/
inductive LoadError where
  | outOfBounds
  deriving DecidableEq, Repr

/-- `bytes[k]` to `MEM[offset + k]`, in order (R71). -/
def Memory.setBytes : Memory → Nat → List Byte → Memory
  | m, _, [] => m
  | m, a, b :: bs => Memory.setBytes (m.set a b) (a + 1) bs

/-- `load(offset, bytes)` (R71): past the end of memory it fails and writes nothing. A failed load gives no
state, so no step may follow it (D23). -/
def State.load (s : State) (offset : Nat) (bytes : List Byte) : Except LoadError State :=
  if Config.memSize < offset + bytes.length then .error .outOfBounds
  else .ok (s.setMem (s.mem.setBytes offset bytes))

/-- A session's start: reset, and the ROM loaded at 0x200 (R300, R301). -/
def State.boot (rom : List Byte) : Except LoadError State := State.reset.load Config.progBase rom

/-- `reset` during a session, in either status: the reset state again, the ROM to be loaded anew (R304). The
environment's draws go on from where they are (log entry 11). -/
def State.resetSession (s : State) : State :=
  { State.reset with randDraws := s.randDraws, keyDraws := s.keyDraws }

/-- The output `awaiting_key` (R35, R36): running, the word at PC is FX0A, and no key is latched as pressed. -/
def State.awaitingKey (s : State) : Bool :=
  match s.status, s.fetch with
  | .running, .ok w =>
    match decode w with
    | .instr (.ldVxK _) => s.keys == 0
    | _ => false
  | _, _ => false

/-- Bit k of `fb_out`: pixel (k mod 64, k div 64) of the display last presented (R282). -/
def State.fbOutBit (s : State) (k : Nat) : Bool := pixel s.fbOut (k % 64) (k / 64)

end Sys2Proof.Machine
end

