-- ==== Sys2Proof/Machine/Step.lean ====
section
/-! DEFINITION. The machine's step, and how an instruction is placed where the next step fetches. -/

namespace Sys2Proof.Machine

/-- One `step` transaction (R120), with the period the configuration leaves open and the environment's next key
snapshot. -/
def step (s : State) : Host.Outcome State Fault Refusal :=
  stepWith Config.cyclesPerTick (Config.keysIn s.keyDraws) s

/-- The instruction whose bits `opcode_table.json` numbers as w, stored at PC and PC + 1, high byte first (R64).
It stands for the loader's placing of a program (R71, R301). Where PC + 1 is past the end of memory no fetch can
succeed, and where STATUS is Faulted no step has an effect; neither is changed here. -/
def State.withFetchWord (s : State) (nbits w : Nat) : State :=
  match s.writeBytes s.pc.toNat [highByte (tableWord nbits w), lowByte (tableWord nbits w)] with
  | .ok t => t
  | .error _ => s

end Sys2Proof.Machine
end

