-- ==== Sys2Proof/Machine/Run.lean ====
section
/-! DEFINITION. A run of steps, and its end as claims about programs mean it (`70_reset_and_hazards.md` R311).
The hardware stops at no end but a fault: these are terms for claims, and no step reads them (D25). -/

namespace Sys2Proof.Machine

/-- n steps for a tick period and a supply of key snapshots. The environment may stop after any n (R311 (b)), which
changes no state (R285). -/
def runWith (period : Nat) (keysIn : Nat → Keys) : Nat → State → Host.Outcome State Fault Refusal
  | 0, s => .next s
  | n + 1, s =>
    match runWith period keysIn n s with
    | .next t => stepWith period (keysIn t.keyDraws) t
    | .fault f => .fault f
    | .refused r => .refused r

/-- n steps of the machine. -/
def run (n : Nat) (s : State) : Host.Outcome State Fault Refusal :=
  runWith Config.cyclesPerTick Config.keysIn n s

/-- STATUS is Running and PC is `halt_pc` (R311). -/
def State.atHaltPc (s : State) (haltPc : Word) : Bool := decide (s.status = .running) && decide (s.pc = haltPc)

/-- The word at PC is a 1NNN that jumps to itself (R141, R311). -/
def State.selfJump (s : State) : Bool :=
  match s.fetch with
  | .ok w => decide (decode w = .instr (.jp s.pc))
  | .error _ => false

/-- t is the first state a run from s reaches, after n steps, with STATUS Running and PC at `halt_pc`, and the word
there is a 1NNN that jumps to itself: the end of the run at `halt_pc` (R311, D25, log entry 14). -/
def EndsAt (period : Nat) (keysIn : Nat → Keys) (haltPc : Word) (n : Nat) (s t : State) : Prop :=
  runWith period keysIn n s = .next t ∧ t.atHaltPc haltPc = true ∧ t.selfJump = true ∧
    ∀ m u, m < n → runWith period keysIn m s = .next u → u.atHaltPc haltPc = false

/-- t is the first state a run from s reaches, after n steps, that is not Running: the end of the run by a fault
(R311 (a)). It is never a normal end. -/
def EndsFaulted (period : Nat) (keysIn : Nat → Keys) (n : Nat) (s t : State) : Prop :=
  runWith period keysIn n s = .next t ∧ t.status ≠ .running ∧
    ∀ m u, m < n → runWith period keysIn m s = .next u → u.status = .running

end Sys2Proof.Machine
end

