-- ==== Sys2Proof/Safety.lean ====
section
/-! DEFINITION. The terms the statements use: the invariant of the machine, what a fault may be and when the spec
says it is raised, the next PC by class, which registers an instruction reads and writes, and the frames. -/

namespace Sys2Proof.Machine

/-! ## The invariant -/

/-- The info a fault may record (`60_exceptions.md` R270). -/
def Fault.legal : Fault → Bool
  | .memoryFault a => decide (0x1000 ≤ a ∧ a ≤ 0x1000E)
  | .stackOverflow sp => decide (sp = 16)
  | .stackUnderflow sp => decide (sp = 0)
  | .keyIndexFault b => decide (16 ≤ b.toNat)

/-- A status whose fault, if any, records info of its range (R270). -/
def Status.legal : Status → Bool
  | .running => true
  | .faulted f _ => f.legal

/-- What holds at reset and after every step, for a tick period: memory is in its canonical form, STEPCNT is below
the period (`10_state.md` R20), and a recorded fault is one of R270. -/
def State.Inv (period : Nat) (s : State) : Bool :=
  s.mem.wf && decide (s.stepCnt < period) && s.status.legal

/-- A safe state: one from which the next step has an effect (`40_execution_cycle.md` R120, R126). -/
def State.Safe (s : State) : Prop := s.status = .running

/-! ## Frames -/

/-- Every byte of memory reads as before. -/
def SameBytes (s t : State) : Prop := ∀ a, t.memRead a = s.memRead a

/-- From s to t nothing has changed but the PC and, of the registers V0 to VF, those named: I, SP, the stack, the
timers, the display, the keys, the counters, the status, the outputs and every byte of memory are as before. -/
def OnlyRegs (named : Reg → Prop) (s t : State) : Prop :=
  t = { s with v := t.v, pc := t.pc } ∧ (∀ r, ¬named r → t.getV r = s.getV r) ∧ SameBytes s t

/-- From s to t nothing has changed but the PC. -/
def OnlyPc (s t : State) : Prop := t = { s with pc := t.pc } ∧ SameBytes s t

/-- From s to t nothing has changed but I and the PC. -/
def OnlyIndex (s t : State) : Prop := t = { s with i := t.i, pc := t.pc } ∧ SameBytes s t

/-- `next` (R12): the PC has gone on by 2, modulo 65536. -/
def NextPc (s t : State) : Prop := t.pc.toNat = (s.pc.toNat + 2) % 65536

/-- `skip` if the condition holds and `next` if not (R12, R123). -/
def SkipPc (c : Prop) (s t : State) : Prop :=
  (c → t.pc.toNat = (s.pc.toNat + 4) % 65536) ∧ (¬c → t.pc.toNat = (s.pc.toNat + 2) % 65536)

/-- From u to t one step has been counted, for a tick period and a key snapshot (R278). Where the count reaches the
period, a tick has run (R279): each timer is one lower or still 0 (R280), the display is presented (R282), the audio
gate follows the decremented sound timer (R281), the snapshot is latched (R283) and consumed, and nothing else has
changed. Otherwise STEPCNT is one higher and nothing else has changed. -/
def Counted (period : Nat) (k : Keys) (u t : State) : Prop :=
  (u.stepCnt + 1 = period →
    t.stepCnt = 0 ∧ t.dt.toNat = u.dt.toNat - 1 ∧ t.st.toNat = u.st.toNat - 1 ∧ t.fbOut = u.disp ∧
    (t.soundOn = true ↔ 2 ≤ u.st.toNat) ∧ t.keys = k ∧ t.keyDraws = u.keyDraws + 1 ∧
    t = State.tick { u with stepCnt := 0 } k ∧
    t = { u with stepCnt := t.stepCnt, dt := t.dt, st := t.st, fbOut := t.fbOut, soundOn := t.soundOn,
                 keys := t.keys, keyDraws := t.keyDraws }) ∧
  (u.stepCnt + 1 ≠ period → t.stepCnt = u.stepCnt + 1 ∧ t = { u with stepCnt := t.stepCnt })

/-- s with a fault entered: STATUS written and nothing else (R272). -/
def Faulted (s : State) (f : Fault) : State := { s with status := .faulted f s.pc }

/-! ## Encodings -/

/-- The words that a mask and match of the opcode map select decode to the given instruction (R96). -/
def Encodes (mask mtch : Word) (f : Word → Instr) : Prop := ∀ w, w &&& mask = mtch → decode w = .instr (f w)

/-- A word selects no row of the opcode map (R96, R97). -/
def SelectsNoRow (w : Word) : Prop := ∀ i, w &&& (opcodeRow i).1 ≠ (opcodeRow i).2

/-- An instruction's operands are the fields of a word that its pattern in the opcode map names (R91, R96). -/
def OperandsFrom (w : Word) (i : Instr) : Prop :=
  match i with
  | .cls | .ret => True
  | .jp nnn | .call nnn | .ldI nnn | .jpV0 nnn => nnn = fieldNNN w
  | .seImm x nn | .sneImm x nn | .ldImm x nn | .addImm x nn | .rnd x nn => x = fieldX w ∧ nn = fieldNN w
  | .seReg x y | .ldReg x y | .orReg x y | .andReg x y | .xorReg x y | .addReg x y | .sub x y | .subn x y
  | .sneReg x y => x = fieldX w ∧ y = fieldY w
  | .drw x y n => x = fieldX w ∧ y = fieldY w ∧ n = fieldN w
  | .shr x | .shl x | .skp x | .sknp x | .ldVxDt x | .ldVxK x | .ldDt x | .ldSt x | .addI x | .ldF x | .ldB x
  | .ldMemStore x | .ldMemLoad x => x = fieldX w

/-! ## The spec's tables over instructions -/

/-- Which fault an instruction raises in a state, if any (the table of R271). For an access sequence it is the
lowest address at or past 4096 (R275). -/
def faultOf (i : Instr) (s : State) : Option Fault :=
  match i with
  | .ret => if s.sp = 0 then some (.stackUnderflow 0) else none
  | .call _ => if s.sp = 16 then some (.stackOverflow 16) else none
  | .drw _ _ n =>
    if 1 ≤ n.val ∧ 4096 ≤ s.i.toNat + n.val - 1 then some (.memoryFault (max s.i.toNat 4096)) else none
  | .ldB _ => if 4096 ≤ s.i.toNat + 2 then some (.memoryFault (max s.i.toNat 4096)) else none
  | .ldMemStore x => if 4096 ≤ s.i.toNat + x.val then some (.memoryFault (max s.i.toNat 4096)) else none
  | .ldMemLoad x => if 4096 ≤ s.i.toNat + x.val then some (.memoryFault (max s.i.toNat 4096)) else none
  | .skp x => if 16 ≤ (s.getV x).toNat then some (.keyIndexFault (s.getV x)) else none
  | .sknp x => if 16 ≤ (s.getV x).toNat then some (.keyIndexFault (s.getV x)) else none
  | .cls | .jp _ | .seImm _ _ | .sneImm _ _ | .seReg _ _ | .ldImm _ _ | .addImm _ _ | .ldReg _ _ | .orReg _ _
  | .andReg _ _ | .xorReg _ _ | .addReg _ _ | .sub _ _ | .shr _ | .subn _ _ | .shl _ | .sneReg _ _ | .ldI _
  | .jpV0 _ | .rnd _ _ | .ldVxDt _ | .ldVxK _ | .ldDt _ | .ldSt _ | .addI _ | .ldF _ => none

/-- The PC after an instruction that raises no fault, by its class (the table of R123). -/
def pcAfter (i : Instr) (s : State) : Nat :=
  match i with
  | .cls | .ldImm _ _ | .addImm _ _ | .ldReg _ _ | .orReg _ _ | .andReg _ _ | .xorReg _ _ | .addReg _ _ | .sub _ _
  | .shr _ | .subn _ _ | .shl _ | .ldI _ | .rnd _ _ | .drw _ _ _ | .ldVxDt _ | .ldDt _ | .ldSt _ | .addI _ | .ldF _
  | .ldB _ | .ldMemStore _ | .ldMemLoad _ => (s.pc.toNat + 2) % 65536
  | .seImm x nn => if s.getV x = nn then (s.pc.toNat + 4) % 65536 else (s.pc.toNat + 2) % 65536
  | .sneImm x nn => if s.getV x ≠ nn then (s.pc.toNat + 4) % 65536 else (s.pc.toNat + 2) % 65536
  | .seReg x y => if s.getV x = s.getV y then (s.pc.toNat + 4) % 65536 else (s.pc.toNat + 2) % 65536
  | .sneReg x y => if s.getV x ≠ s.getV y then (s.pc.toNat + 4) % 65536 else (s.pc.toNat + 2) % 65536
  | .skp x => if s.key (s.getV x).toNat = true then (s.pc.toNat + 4) % 65536 else (s.pc.toNat + 2) % 65536
  | .sknp x => if s.key (s.getV x).toNat = false then (s.pc.toNat + 4) % 65536 else (s.pc.toNat + 2) % 65536
  | .jp nnn => nnn.toNat
  | .call nnn => nnn.toNat
  | .jpV0 nnn => (nnn.toNat + (s.getV 0).toNat) % 65536
  | .ret => (s.stack[s.sp.val - 1]'(by have := s.sp.isLt; omega)).toNat
  | .ldVxK _ => if s.keys = 0 then s.pc.toNat else (s.pc.toNat + 2) % 65536

/-- The registers an instruction may write (the first list of R23). -/
def writesReg (i : Instr) (r : Reg) : Prop :=
  match i with
  | .ldImm x _ | .addImm x _ | .ldReg x _ | .orReg x _ | .andReg x _ | .xorReg x _ | .rnd x _ | .ldVxDt x
  | .ldVxK x => r = x
  | .addReg x _ | .sub x _ | .shr x | .subn x _ | .shl x => r = x ∨ r = 15
  | .drw _ _ _ => r = 15
  | .ldMemLoad x => r.val ≤ x.val
  | .cls | .ret | .jp _ | .call _ | .seImm _ _ | .sneImm _ _ | .seReg _ _ | .sneReg _ _ | .ldI _ | .jpV0 _ | .skp _
  | .sknp _ | .ldDt _ | .ldSt _ | .addI _ | .ldF _ | .ldB _ | .ldMemStore _ => False

/-- The registers an instruction reads (the second list of R23). -/
def readsReg (i : Instr) (r : Reg) : Prop :=
  match i with
  | .seImm x _ | .sneImm x _ | .addImm x _ | .shr x | .shl x | .skp x | .sknp x | .ldDt x | .ldSt x | .addI x
  | .ldF x | .ldB x => r = x
  | .seReg x y | .sneReg x y | .orReg x y | .andReg x y | .xorReg x y | .addReg x y | .sub x y | .subn x y
  | .drw x y _ => r = x ∨ r = y
  | .ldReg _ y => r = y
  | .jpV0 _ => r = 0
  | .ldMemStore x => r.val ≤ x.val
  | .cls | .ret | .jp _ | .call _ | .ldImm _ _ | .ldI _ | .rnd _ _ | .ldVxDt _ | .ldVxK _ | .ldMemLoad _ => False

/-- The instructions that write VF as a flag, where their destination is not VF itself (R22, R24). -/
def setsFlag (i : Instr) : Prop :=
  match i with
  | .addReg x _ | .sub x _ | .shr x | .subn x _ | .shl x => x ≠ 15
  | .drw _ _ _ => True
  | .cls | .ret | .jp _ | .call _ | .seImm _ _ | .sneImm _ _ | .seReg _ _ | .ldImm _ _ | .addImm _ _ | .ldReg _ _
  | .orReg _ _ | .andReg _ _ | .xorReg _ _ | .sneReg _ _ | .ldI _ | .jpV0 _ | .rnd _ _ | .skp _ | .sknp _
  | .ldVxDt _ | .ldVxK _ | .ldDt _ | .ldSt _ | .addI _ | .ldF _ | .ldB _ | .ldMemStore _ | .ldMemLoad _ => False

/-! ## Sprites -/

/-- The sprite of n bytes at I, drawn at the coordinates in Vx and Vy, has a set bit on the pixel (px, py): bit 7 - c
of the byte at I + r falls c columns right of and r rows below (Vx, Vy), modulo 64 and 32 (R232). -/
def SpriteCovers (s : State) (x y : Reg) (n px py : Nat) : Prop :=
  ∃ r c b, r < n ∧ c < 8 ∧ s.memRead (s.base + r) = .ok b ∧ b.getLsbD (7 - c) = true ∧
    px = ((s.getV x).toNat + c) % 64 ∧ py = ((s.getV y).toNat + r) % 32

/-- Two states that may differ only in what no instruction reads: STEPCNT and the outputs (R35, R36, R288). -/
def State.withHidden (s : State) (n : Nat) (fb : Display) (on : Bool) (d : List DiagEvent) : State :=
  { s with stepCnt := n, fbOut := fb, soundOn := on, diag := d }

end Sys2Proof.Machine
end

