-- ==== Sys2Proof/Certificates/Slice0/Obligations.lean ====
section
/-! DEFINITION. The statements for the provers. A docstring names the rule a statement formalises; where a clause
rests on the spec's own decision Dn (`92_eei_decisions.md`), on a consequence the spec marks as derived, or on an
entry of this model's assumption log, the docstring says so. -/

open Sys2Proof Sys2Proof.Machine

/-! ## Encoding -/

/-- Decoding an encoded well-formed instruction gives it back, every operand at every value; and a decoder takes
exactly two bytes (R90, R91, R96, with D9 and D10 in the opcode map). -/
def Obligations.DecodeOfEncodeIsInstr : Prop :=
  ∀ i : Instr, i.wellFormed = true →
    decode (encode i) = .instr i ∧
    ∀ rest : List Byte, decodeBytes (encodeBytes i ++ rest) = .ok (.instr i, rest)

/-- What the decoder gives is well formed: nnn is a 12-bit address (R92, which the spec marks as derived). -/
def Obligations.DecodeGivesWellFormed : Prop :=
  ∀ (w : Word) (i : Instr), decode w = .instr i → i.wellFormed = true

/-- The fields of an instruction word are those of R91's table, by the source's formulas. -/
def Obligations.FieldsAreBitSlices : Prop :=
  ∀ w : Word,
    (fieldOp w).toNat = ((w &&& 0xF000#16) >>> 12).toNat ∧
    (fieldX w).val = ((w &&& 0x0F00#16) >>> 8).toNat ∧
    (fieldY w).val = ((w &&& 0x00F0#16) >>> 4).toNat ∧
    (fieldN w).val = (w &&& 0x000F#16).toNat ∧
    (fieldNN w).toNat = (w &&& 0x00FF#16).toNat ∧
    fieldNNN w = w &&& 0x0FFF#16

/-- A word decodes to an instruction of the row that its mask and match select, and a word that selects a row
decodes to an instruction of that row (R96; the rows of groups 0, 5 and 9 are the spec's decisions D9 and D10). -/
def Obligations.DecodeFollowsOpcodeMap : Prop :=
  (∀ (w : Word) (i : Instr), decode w = .instr i → w &&& (opcodeRow i).1 = (opcodeRow i).2) ∧
  (∀ (w : Word) (i : Instr), w &&& (opcodeRow i).1 = (opcodeRow i).2 →
    ∃ j, decode w = .instr j ∧ opcodeRow j = opcodeRow i)

/-- The unrecognized words are exactly the four lists of R98 (which the spec marks as derived). -/
def Obligations.UnrecognizedWordsAreTheListed : Prop :=
  ∀ w : Word, decode w = .unrecognized w ↔
    (w.toNat < 0x1000 ∧ w.toNat ≠ 0x00E0 ∧ w.toNat ≠ 0x00EE) ∨
    (w.toNat / 4096 = 0x8 ∧ w.toNat % 16 ∈ [0x8, 0x9, 0xA, 0xB, 0xC, 0xD, 0xF]) ∨
    (w.toNat / 4096 = 0xE ∧ w.toNat % 256 ∉ [0x9E, 0xA1]) ∨
    (w.toNat / 4096 = 0xF ∧ w.toNat % 256 ∉ [0x07, 0x0A, 0x15, 0x18, 0x1E, 0x29, 0x33, 0x55, 0x65])

/-- Decoding is total (R99): a word is an instruction of the row that selects it, with the word's fields as its
operands and well formed, or it selects no row and is unrecognized under its own value. That decoding reads no state is
its type. (The rows of groups 0, 5 and 9 are the spec's decisions D9 and D10.) -/
def Obligations.DecodingIsTotal : Prop :=
  ∀ w : Word,
    (∃ i, decode w = .instr i ∧ w &&& (opcodeRow i).1 = (opcodeRow i).2 ∧ OperandsFrom w i ∧ i.wellFormed = true) ∨
    (decode w = .unrecognized w ∧ SelectsNoRow w)

/-- Words the spec writes out decode as it says (the examples of R100, `41_flow.md`, `42_alu.md`,
`43_index_memory.md`, `44_display.md`, `45_keys_timers.md` and R125). That 0x01E0 is unrecognized is vector E8 of
`95_test_vectors.md` and rests on the spec's decision D10: group 0 matches the full word (R94, log entry 12). -/
def Obligations.SpecWordsDecode : Prop :=
  decode 0x8344#16 = .instr (.addReg 3 4) ∧ decode 0xD125#16 = .instr (.drw 1 2 5) ∧
  decode 0x1234#16 = .instr (.jp 0x234) ∧ decode 0x220A#16 = .instr (.call 0x20A) ∧
  decode 0x6A12#16 = .instr (.ldImm 0xA 0x12) ∧ decode 0x830E#16 = .instr (.shl 3) ∧
  decode 0xA2F0#16 = .instr (.ldI 0x2F0) ∧ decode 0xF155#16 = .instr (.ldMemStore 1) ∧
  decode 0xE5A1#16 = .instr (.sknp 5) ∧ decode 0x00E0#16 = .instr .cls ∧
  decode 0x0123#16 = .unrecognized 0x0123 ∧ decode 0x01E0#16 = .unrecognized 0x01E0

/-! ## The step -/

/-- A step of a running machine runs the instruction that the bytes at PC decode to, and then counts the step
(R120, R121, R122). -/
def Obligations.StepRunsDecodedInstruction : Prop :=
  ∀ (s t : State) (hi lo : Byte) (i : Instr),
    s.status = .running →
    s.memRead s.pc.toNat = .ok hi → s.memRead (s.pc.toNat + 1) = .ok lo →
    decode (wordOfBytes hi lo) = .instr i →
    exec i s = .next t →
    step s = .next (t.afterInstr Config.cyclesPerTick (Config.keysIn s.keyDraws))

/-- A word that selects no row is executed as a no-op that emits a diagnostic and advances PC by 2 (R97, R125), and
nothing else changes; one diagnostic a word is the spec's decision D22, its trace as state log entry 8. That the step
then counts as any other is R120 and R278, the spec's decision D17; the period it counts to and the key snapshot a tick
would latch are the open constants of log entries 2 and 4. -/
def Obligations.UnrecognizedWordIsDiagnosedNoOp : Prop :=
  ∀ (s : State) (hi lo : Byte),
    s.status = .running →
    s.memRead s.pc.toNat = .ok hi → s.memRead (s.pc.toNat + 1) = .ok lo →
    SelectsNoRow (wordOfBytes hi lo) →
    ∃ t, step s = .next (t.afterInstr Config.cyclesPerTick (Config.keysIn s.keyDraws)) ∧
      t.diag = s.diag ++ [⟨wordOfBytes hi lo, s.pc⟩] ∧ NextPc s t ∧ t.status = .running ∧
      t = { s with diag := t.diag, pc := t.pc }

/-- A faulted machine takes no further step: a `step` changes nothing (R126, the spec's decision D21). -/
def Obligations.FaultedStepHasNoEffect : Prop :=
  ∀ (s : State) (f : Fault) (a : Word), s.status = .faulted f a → step s = .next s

/-- The fetch takes the byte at PC as the high byte and the byte at PC + 1 as the low one, at any PC, even or odd
(R121, R64, R65, D5). -/
def Obligations.FetchIsBigEndian : Prop :=
  ∀ (s : State) (hi lo : Byte),
    s.memRead s.pc.toNat = .ok hi → s.memRead (s.pc.toNat + 1) = .ok lo →
    ∃ w, s.fetch = .ok w ∧ w.toNat = hi.toNat * 256 + lo.toNat

/-- A fetch at PC 0x0FFF or above faults, reporting the first address out of range, and changes STATUS alone (R121
as the spec derives it, R272, D21). -/
def Obligations.FetchPastMemoryFaults : Prop :=
  ∀ s : State, s.status = .running → 0x0FFF ≤ s.pc.toNat →
    step s = .next (Faulted s (.memoryFault (if s.pc.toNat = 0x0FFF then 0x1000 else s.pc.toNat)))

/-- Every step of every state answers a next state: the hardware refuses nothing, and a fault is a status it goes
on with (R120, R126, R272, R273; log entry 5). -/
def Obligations.EveryStepAnswersNext : Prop :=
  ∀ s : State, ∃ t, step s = .next t

/-- What reset leaves (R37; the values of the stack, the keys, STEPCNT, STATUS and the outputs are the spec's
decisions D17, D18, D19, D21, D26, the font at 0 is D2; the diag trace is empty by log entry 8). -/
def Obligations.ResetState : Prop :=
  (∀ a, a < 80 → State.reset.memRead a = .ok (Config.font a)) ∧
  (∀ a, 80 ≤ a → a < 4096 → State.reset.memRead a = .ok 0) ∧
  (∀ r, State.reset.getV r = 0) ∧ State.reset.i = 0 ∧ State.reset.pc = 0x200 ∧ State.reset.sp = 0 ∧
  (∀ k, State.reset.stack.get k = 0) ∧ State.reset.dt = 0 ∧ State.reset.st = 0 ∧
  (∀ x y, x < 64 → y < 32 → pixel State.reset.disp x y = false) ∧ State.reset.keys = 0 ∧
  State.reset.stepCnt = 0 ∧ State.reset.status = .running ∧ State.reset.soundOn = false ∧
  (∀ k, k < 2048 → State.reset.fbOutBit k = false) ∧ State.reset.diag = []

/-- The invariant holds at reset. -/
def Obligations.ResetMeetsInvariant : Prop := State.reset.Inv Config.cyclesPerTick = true

/-- Every step from a state that meets the invariant gives one that meets it: memory keeps its canonical form,
STEPCNT stays below the tick period, and a recorded fault is one R270 allows. -/
def Obligations.StepKeepsInvariant : Prop :=
  ∀ s t : State, s.Inv Config.cyclesPerTick = true → step s = .next t → t.Inv Config.cyclesPerTick = true

/-- Faults are precise: a step that leaves the machine faulted has changed STATUS and nothing else, and recorded the
PC of the instruction (R272, the spec's decision D21). -/
def Obligations.FaultingStepChangesOnlyStatus : Prop :=
  ∀ s t : State, s.status = .running → step s = .next t → t.status ≠ .running → ∃ f, t = Faulted s f

/-- Which instruction raises which fault, and that no other does (the table of R271, which the spec marks as
derived; KeyIndexFault is its decision D15). -/
def Obligations.FaultsAreThoseListed : Prop :=
  ∀ (i : Instr) (s : State), s.status = .running →
    ∃ t, exec i s = .next t ∧
      match faultOf i s with
      | some f => t = Faulted s f
      | none => t.status = .running

/-- The next PC of every instruction that raises no fault, and of an unrecognized word, is that of its class
(R123). -/
def Obligations.NextPcFollowsClass : Prop :=
  (∀ (i : Instr) (s t : State), s.status = .running → exec i s = .next t → t.status = .running →
    t.pc.toNat = pcAfter i s) ∧
  (∀ (w : Word) (s t : State), execUnrecognized w s = .next t → NextPc s t)

/-- Cadence: `countStep` counts one step, ticking at the period's last and only then; and a step that does not fault
runs its instruction, which touches neither the cadence nor what a tick alone writes, and then counts once. So between
ticks the keys, the outputs `fb_out` and `sound_on`, and what the instruction left in the timers stay as they are. For
every period and every key snapshot (R278 to R283, R34, R120; the cadence is the spec's decision D17, the tick D18, the
count of snapshots log entry 4). -/
def Obligations.CadenceCountsSteps : Prop :=
  (∀ (p : Nat) (k : Keys) (s : State), Counted p k s (s.countStep p k)) ∧
  (∀ (p : Nat) (k : Keys) (s t : State),
    s.status = .running → stepWith p k s = .next t → t.status = .running →
    ∃ w u, s.fetch = .ok w ∧ execDecoded (decode w) s = .next u ∧
      u.stepCnt = s.stepCnt ∧ u.keys = s.keys ∧ u.fbOut = s.fbOut ∧ u.soundOn = s.soundOn ∧
      u.keyDraws = s.keyDraws ∧ Counted p k u t)

/-- The tick: both timers go down by 1 and stay at 0, the audio gate follows the sound timer after its decrement, the
keys are latched, and nothing a program names otherwise changes (R276, R279, R280, R281, R283, the spec's decision
D18). -/
def Obligations.TickCountsDownGatesAndLatches : Prop :=
  ∀ (s : State) (k : Keys),
    (s.tick k).dt.toNat = s.dt.toNat - 1 ∧ (s.tick k).st.toNat = s.st.toNat - 1 ∧
    ((s.tick k).soundOn = true ↔ 2 ≤ s.st.toNat) ∧ (s.tick k).keys = k ∧
    s.tick k = { s with dt := (s.tick k).dt, st := (s.tick k).st, fbOut := s.disp,
                        soundOn := (s.tick k).soundOn, keys := k, keyDraws := s.keyDraws + 1 }

/-- The presented copy: bit y * 64 + x of `fb_out` is pixel (x, y) of the display, and presenting does not change the
display (R282). -/
def Obligations.PresentedCopyIsTheDisplay : Prop :=
  ∀ s : State,
    (∀ x y, x < 64 → y < 32 → s.presentDisplay.fbOutBit (y * 64 + x) = pixel s.disp x y) ∧
    s.presentDisplay = { s with fbOut := s.presentDisplay.fbOut }

/-! ## Rules about all instructions -/

/-- Only 2NNN and 00EE write SP and the stack: a call writes the one entry at SP, a return clears none (R29, R30,
D26). -/
def Obligations.OnlyCallAndRetTouchTheStack : Prop :=
  (∀ (i : Instr) (s t : State), exec i s = .next t → i ≠ .ret → (∀ nnn, i ≠ .call nnn) →
    t.sp = s.sp ∧ t.stack = s.stack) ∧
  (∀ s t : State, exec .ret s = .next t → t.stack = s.stack) ∧
  (∀ (nnn : Word) (s t : State), exec (.call nnn) s = .next t →
    ∀ k : Fin 16, k.val ≠ s.sp.val → t.stack.get k = s.stack.get k)

/-- Only 00E0 and DXYN change the display (R233, which the spec marks as derived). -/
def Obligations.OnlyClsAndDrwChangeTheDisplay : Prop :=
  ∀ (i : Instr) (s t : State), exec i s = .next t → i ≠ .cls → (∀ x y n, i ≠ .drw x y n) → t.disp = s.disp

/-- Only FX33 and FX55 change memory (R66, which the spec marks as derived). -/
def Obligations.OnlyBcdAndStoreChangeMemory : Prop :=
  ∀ (i : Instr) (s t : State), exec i s = .next t → (∀ x, i ≠ .ldB x) → (∀ x, i ≠ .ldMemStore x) → SameBytes s t

/-- An instruction writes no register but those the first list of R23 gives it; so VF changes only as a flag or as a
named destination (R22, R23, which the spec marks as derived). -/
def Obligations.OnlyListedRegistersAreWritten : Prop :=
  ∀ (i : Instr) (s t : State) (r : Reg), exec i s = .next t → ¬writesReg i r → t.getV r = s.getV r

/-- An instruction's effect does not depend on a register that the second list of R23 does not give it: changing that
register beforehand changes nothing afterwards but, at most, that register (R22, R23, marked as derived). -/
def Obligations.OnlyListedRegistersAreRead : Prop :=
  ∀ (i : Instr) (s t u : State) (r : Reg) (b : Byte), ¬readsReg i r →
    exec i s = .next t → exec i (s.setV r b) = .next u →
    u = { t with v := u.v } ∧ ∀ q, q ≠ r → u.getV q = t.getV q

/-- When a flag instruction that does not name VF as its destination completes, VF is 0 or 1 (R24). -/
def Obligations.FlagIsZeroOrOne : Prop :=
  ∀ (i : Instr) (s t : State), s.status = .running → setsFlag i → exec i s = .next t → t.status = .running →
    t.getV 15 = 0 ∨ t.getV 15 = 1

/-- No instruction reads STEPCNT or an output: with those changed beforehand it does the same, and leaves them as they
were (R35, R276, R288; the traces as fields of the state are log entries 8 and 9). -/
def Obligations.HiddenStateIsNeverRead : Prop :=
  ∀ (i : Instr) (s t : State) (n : Nat) (fb : Display) (on : Bool) (d : List DiagEvent),
    exec i s = .next t → exec i (s.withHidden n fb on d) = .next (t.withHidden n fb on d)

/-! ## Memory -/

/-- MemRead and MemWrite (R61, R62): a fault at 4096 and above, else the byte memory holds there, with no other effect; a
byte written is read back and every other byte is as before. -/
def Obligations.MemReadAndMemWrite : Prop :=
  (∀ (s : State) (a : Nat), 4096 ≤ a → s.memRead a = .error (.memoryFault a)) ∧
  (∀ (s : State) (a : Nat), a < 4096 → s.memRead a = .ok (s.mem.get a)) ∧
  (∀ (s : State) (a : Nat) (v : Byte), 4096 ≤ a → s.memWrite a v = .error (.memoryFault a)) ∧
  (∀ (s : State) (a : Nat) (v : Byte), s.mem.wf = true → a < 4096 →
    ∃ t, s.memWrite a v = .ok t ∧ t.memRead a = .ok v ∧ (∀ b, b ≠ a → t.memRead b = s.memRead b) ∧
      t = { s with mem := t.mem })

/-- `load` copies the bytes from the offset on, changing nothing else, or fails and writes nothing where they would
exceed memory; a session's ROM of at most 3584 bytes stands at 0x200, where the first step fetches (R71, R301, R302,
the spec's decision D23). -/
def Obligations.LoadCopiesAllOrFails : Prop :=
  (∀ (s : State) (a : Nat) (bs : List Byte), 4096 < a + bs.length → s.load a bs = .error .outOfBounds) ∧
  (∀ (s : State) (a : Nat) (bs : List Byte), s.mem.wf = true → a + bs.length ≤ 4096 →
    ∃ t, s.load a bs = .ok t ∧ (∀ k, (h : k < bs.length) → t.memRead (a + k) = .ok bs[k]) ∧
      (∀ b, b < a ∨ a + bs.length ≤ b → t.memRead b = s.memRead b) ∧ t = { s with mem := t.mem }) ∧
  (∀ rom : List Byte, 3584 < rom.length → State.boot rom = .error .outOfBounds) ∧
  (∀ rom : List Byte, rom.length ≤ 3584 → ∃ t, State.boot rom = .ok t ∧ t.pc = 0x200 ∧ t.status = .running ∧
    ∀ k, (h : k < rom.length) → t.memRead (0x200 + k) = .ok rom[k])

/-- A store over a later instruction's bytes is what its fetch reads: after FX55 has stored V0 and V1 at I, a fetch with
PC there gives V0 || V1 (R77, R306, which the spec marks as derived). -/
def Obligations.StoredBytesAreFetched : Prop :=
  ∀ (s t : State) (x : Reg), s.mem.wf = true → s.status = .running → 1 ≤ x.val →
    exec (.ldMemStore x) s = .next t → t.status = .running → t.pc.toNat = s.base →
    ∃ w, t.fetch = .ok w ∧ w.toNat = (s.getV 0).toNat * 256 + (s.getV 1).toNat

/-! ## Control transfer -/

/-- 1NNN (R141): PC takes nnn, even or odd, and nothing else changes. -/
def Obligations.JpSetsPc : Prop :=
  Encodes 0xF000 0x1000 (fun w => .jp (fieldNNN w)) ∧
  ∀ (nnn : Word) (s : State), ∃ t, exec (.jp nnn) s = .next t ∧ t.pc = nnn ∧ OnlyPc s t

/-- 2NNN (R142): with SP below 16 the address of the next instruction is pushed, full 16 bits, and PC takes nnn; with SP
at 16 the machine faults with nothing else written. That PC + 2 is what is pushed is the spec's decision D7, and the
fault's precision D21. -/
def Obligations.CallPushesOrOverflows : Prop :=
  Encodes 0xF000 0x2000 (fun w => .call (fieldNNN w)) ∧
  (∀ (nnn : Word) (s : State) (h : s.sp.val < 16), ∃ t, exec (.call nnn) s = .next t ∧ t.pc = nnn ∧
    t.sp.val = s.sp.val + 1 ∧ (t.stack.get ⟨s.sp.val, h⟩).toNat = (s.pc.toNat + 2) % 65536 ∧
    (∀ k : Fin 16, k.val ≠ s.sp.val → t.stack.get k = s.stack.get k) ∧
    t = { s with pc := t.pc, sp := t.sp, stack := t.stack } ∧ SameBytes s t) ∧
  (∀ (nnn : Word) (s : State), s.sp.val = 16 → exec (.call nnn) s = .next (Faulted s (.stackOverflow 16)))

/-- 00EE (R140): with SP above 0 the entry below SP goes to PC, with nothing added (D7), and SP goes down by 1, the entry
being kept; with SP at 0 the machine faults with nothing else written (D21). -/
def Obligations.RetPopsOrUnderflows : Prop :=
  Encodes 0xFFFF 0x00EE (fun _ => .ret) ∧
  (∀ (s : State) (k : Fin 16), s.sp.val = k.val + 1 → ∃ t, exec .ret s = .next t ∧ t.pc = s.stack.get k ∧
    t.sp.val = k.val ∧ t = { s with pc := t.pc, sp := t.sp } ∧ SameBytes s t) ∧
  (∀ s : State, s.sp.val = 0 → exec .ret s = .next (Faulted s (.stackUnderflow 0)))

/-- A call that its return follows resumes at the instruction after the call, with the stack as deep as before, and has
changed nothing but one stack entry (R140, R142, D7). -/
def Obligations.CallThenRetResumesAfterCall : Prop :=
  ∀ (nnn : Word) (s t u : State), s.sp.val < 16 → exec (.call nnn) s = .next t → exec .ret t = .next u →
    NextPc s u ∧ u = { s with pc := u.pc, stack := u.stack } ∧ u.status = s.status

/-- 3XNN and 4XNN (R143, R144): skip on equal, skip on unequal, and nothing but PC changes. -/
def Obligations.SkipsOnImmediate : Prop :=
  Encodes 0xF000 0x3000 (fun w => .seImm (fieldX w) (fieldNN w)) ∧
  Encodes 0xF000 0x4000 (fun w => .sneImm (fieldX w) (fieldNN w)) ∧
  (∀ (x : Reg) (nn : Byte) (s : State), ∃ t, exec (.seImm x nn) s = .next t ∧
    SkipPc (s.getV x = nn) s t ∧ OnlyPc s t) ∧
  (∀ (x : Reg) (nn : Byte) (s : State), ∃ t, exec (.sneImm x nn) s = .next t ∧
    SkipPc (s.getV x ≠ nn) s t ∧ OnlyPc s t)

/-- 5XYN and 9XYN (R145, R146): skip on equal registers, skip on unequal ones, for every value of the ignored low nibble
(R95, the spec's decision D9), and nothing but PC changes. -/
def Obligations.SkipsOnRegisters : Prop :=
  Encodes 0xF000 0x5000 (fun w => .seReg (fieldX w) (fieldY w)) ∧
  Encodes 0xF000 0x9000 (fun w => .sneReg (fieldX w) (fieldY w)) ∧
  (∀ (x y : Reg) (s : State), ∃ t, exec (.seReg x y) s = .next t ∧
    SkipPc (s.getV x = s.getV y) s t ∧ OnlyPc s t) ∧
  (∀ (x y : Reg) (s : State), ∃ t, exec (.sneReg x y) s = .next t ∧
    SkipPc (s.getV x ≠ s.getV y) s t ∧ OnlyPc s t)

/-- BNNN (R147): PC takes nnn + V0, which is not masked to 12 bits (the spec's decision D6), V0 whatever the x nibble. -/
def Obligations.JpV0AddsV0 : Prop :=
  Encodes 0xF000 0xB000 (fun w => .jpV0 (fieldNNN w)) ∧
  ∀ (nnn : Word) (s : State), nnnInRange nnn = true →
    ∃ t, exec (.jpV0 nnn) s = .next t ∧ t.pc.toNat = nnn.toNat + (s.getV 0).toNat ∧ OnlyPc s t

/-! ## Loads and arithmetic -/

/-- 6XNN and 8XY0 (R170, R172): Vx takes the byte or Vy's value; no flag, nothing else. -/
def Obligations.LoadsWriteVx : Prop :=
  Encodes 0xF000 0x6000 (fun w => .ldImm (fieldX w) (fieldNN w)) ∧
  Encodes 0xF00F 0x8000 (fun w => .ldReg (fieldX w) (fieldY w)) ∧
  (∀ (x : Reg) (nn : Byte) (s : State), ∃ t, exec (.ldImm x nn) s = .next t ∧ t.getV x = nn ∧
    NextPc s t ∧ OnlyRegs (· = x) s t) ∧
  (∀ (x y : Reg) (s : State), ∃ t, exec (.ldReg x y) s = .next t ∧ t.getV x = s.getV y ∧
    NextPc s t ∧ OnlyRegs (· = x) s t)

/-- 7XNN (R171): the sum modulo 256 to Vx; VF is not changed unless it is Vx. -/
def Obligations.AddImmediateWraps : Prop :=
  Encodes 0xF000 0x7000 (fun w => .addImm (fieldX w) (fieldNN w)) ∧
  ∀ (x : Reg) (nn : Byte) (s : State), ∃ t, exec (.addImm x nn) s = .next t ∧
    (t.getV x).toNat = ((s.getV x).toNat + nn.toNat) % 256 ∧ NextPc s t ∧ OnlyRegs (· = x) s t

/-- 8XY1, 8XY2, 8XY3 (R173, R174, R175): the bitwise OR, AND and XOR to Vx, bit by bit. That VF is not reset is the
spec's decision D24. -/
def Obligations.BitwiseWritesVx : Prop :=
  Encodes 0xF00F 0x8001 (fun w => .orReg (fieldX w) (fieldY w)) ∧
  Encodes 0xF00F 0x8002 (fun w => .andReg (fieldX w) (fieldY w)) ∧
  Encodes 0xF00F 0x8003 (fun w => .xorReg (fieldX w) (fieldY w)) ∧
  (∀ (x y : Reg) (s : State), ∃ t, exec (.orReg x y) s = .next t ∧
    (∀ k, (t.getV x).getLsbD k = ((s.getV x).getLsbD k || (s.getV y).getLsbD k)) ∧
    NextPc s t ∧ OnlyRegs (· = x) s t) ∧
  (∀ (x y : Reg) (s : State), ∃ t, exec (.andReg x y) s = .next t ∧
    (∀ k, (t.getV x).getLsbD k = ((s.getV x).getLsbD k && (s.getV y).getLsbD k)) ∧
    NextPc s t ∧ OnlyRegs (· = x) s t) ∧
  (∀ (x y : Reg) (s : State), ∃ t, exec (.xorReg x y) s = .next t ∧
    (∀ k, (t.getV x).getLsbD k = ((s.getV x).getLsbD k ^^ (s.getV y).getLsbD k)) ∧
    NextPc s t ∧ OnlyRegs (· = x) s t)

/-- 8XY4 (R176): the sum modulo 256 to Vx, and VF 1 exactly when the sum exceeds 255; where Vx is VF the sum stands and
not the flag (R127, the spec's decision D8). -/
def Obligations.AddSetsCarry : Prop :=
  Encodes 0xF00F 0x8004 (fun w => .addReg (fieldX w) (fieldY w)) ∧
  ∀ (x y : Reg) (s : State), ∃ t, exec (.addReg x y) s = .next t ∧
    (t.getV x).toNat = ((s.getV x).toNat + (s.getV y).toNat) % 256 ∧
    (x ≠ 15 → t.getV 15 = if (s.getV x).toNat + (s.getV y).toNat > 255 then 1 else 0) ∧
    NextPc s t ∧ OnlyRegs (fun r => r = x ∨ r = 15) s t

/-- 8XY5 and 8XY7 (R177, R179): Vx - Vy and Vy - Vx modulo 256, both to Vx, and VF 1 exactly when the minuend is strictly
the greater; where Vx is VF the difference stands (R127, D8). -/
def Obligations.SubtractionsSetNotBorrow : Prop :=
  Encodes 0xF00F 0x8005 (fun w => .sub (fieldX w) (fieldY w)) ∧
  Encodes 0xF00F 0x8007 (fun w => .subn (fieldX w) (fieldY w)) ∧
  (∀ (x y : Reg) (s : State), ∃ t, exec (.sub x y) s = .next t ∧
    ((t.getV x).toNat : Int) = (((s.getV x).toNat : Int) - (s.getV y).toNat) % 256 ∧
    (x ≠ 15 → t.getV 15 = if (s.getV x).toNat > (s.getV y).toNat then 1 else 0) ∧
    NextPc s t ∧ OnlyRegs (fun r => r = x ∨ r = 15) s t) ∧
  (∀ (x y : Reg) (s : State), ∃ t, exec (.subn x y) s = .next t ∧
    ((t.getV x).toNat : Int) = (((s.getV y).toNat : Int) - (s.getV x).toNat) % 256 ∧
    (x ≠ 15 → t.getV 15 = if (s.getV y).toNat > (s.getV x).toNat then 1 else 0) ∧
    NextPc s t ∧ OnlyRegs (fun r => r = x ∨ r = 15) s t)

/-- 8XY6 and 8XYE (R178, R180): Vx shifted by one, whatever y is, and VF the bit shifted out; where Vx is VF the shifted
value stands (R127, D8). -/
def Obligations.ShiftsSetShiftedOutBit : Prop :=
  Encodes 0xF00F 0x8006 (fun w => .shr (fieldX w)) ∧
  Encodes 0xF00F 0x800E (fun w => .shl (fieldX w)) ∧
  (∀ (x : Reg) (s : State), ∃ t, exec (.shr x) s = .next t ∧
    (t.getV x).toNat = (s.getV x).toNat / 2 ∧ (x ≠ 15 → (t.getV 15).toNat = (s.getV x).toNat % 2) ∧
    NextPc s t ∧ OnlyRegs (fun r => r = x ∨ r = 15) s t) ∧
  (∀ (x : Reg) (s : State), ∃ t, exec (.shl x) s = .next t ∧
    (t.getV x).toNat = (s.getV x).toNat * 2 % 256 ∧ (x ≠ 15 → (t.getV 15).toNat = (s.getV x).toNat / 128) ∧
    NextPc s t ∧ OnlyRegs (fun r => r = x ∨ r = 15) s t)

/-- CXNN (R181): Vx takes the environment's next byte under the mask nn, so it is 0 for nn = 0 whatever the byte; the
draw is consumed. Nothing is said of the byte itself (the spec's decision D20, log entry 3). -/
def Obligations.RndMasksFreeDraw : Prop :=
  Encodes 0xF000 0xC000 (fun w => .rnd (fieldX w) (fieldNN w)) ∧
  ∀ (x : Reg) (nn : Byte) (s : State), ∃ t, exec (.rnd x nn) s = .next t ∧
    t.getV x = Config.randIn s.randDraws &&& nn ∧ (nn = 0 → t.getV x = 0) ∧
    t.randDraws = s.randDraws + 1 ∧ (∀ r, r ≠ x → t.getV r = s.getV r) ∧ NextPc s t ∧ SameBytes s t ∧
    t = { s with v := t.v, pc := t.pc, randDraws := t.randDraws }

/-! ## Index register and memory transfer -/

/-- ANNN (R200): I takes nnn; nothing else but PC changes. -/
def Obligations.LoadIndexSetsI : Prop :=
  Encodes 0xF000 0xA000 (fun w => .ldI (fieldNNN w)) ∧
  ∀ (nnn : Word) (s : State), ∃ t, exec (.ldI nnn) s = .next t ∧ t.i = nnn ∧ NextPc s t ∧ OnlyIndex s t

/-- FX1E and FX29 (R201, R202): I + Vx modulo 65536, with no flag (the spec's decision D12); and Vx times 5, not masked to
the low nibble (D13), so that for a digit I is the address of its sprite (R69). -/
def Obligations.IndexArithmetic : Prop :=
  Encodes 0xF0FF 0xF01E (fun w => .addI (fieldX w)) ∧
  Encodes 0xF0FF 0xF029 (fun w => .ldF (fieldX w)) ∧
  (∀ (x : Reg) (s : State), ∃ t, exec (.addI x) s = .next t ∧
    t.i.toNat = (s.i.toNat + (s.getV x).toNat) % 65536 ∧ NextPc s t ∧ OnlyIndex s t) ∧
  (∀ (x : Reg) (s : State), ∃ t, exec (.ldF x) s = .next t ∧
    t.i.toNat = (s.getV x).toNat * 5 ∧ NextPc s t ∧ OnlyIndex s t)

/-- FX33 (R203): the three decimal digits of Vx stand at I, I + 1, I + 2 and no other byte changes; where an address is
past memory the machine faults at the lowest such address with no byte written (the spec's decision D21). -/
def Obligations.BcdStoresDigits : Prop :=
  Encodes 0xF0FF 0xF033 (fun w => .ldB (fieldX w)) ∧
  (∀ (x : Reg) (s : State), s.mem.wf = true → s.base + 2 < 4096 → ∃ t, exec (.ldB x) s = .next t ∧
    (∃ h z o : Byte, t.memRead s.base = .ok h ∧ t.memRead (s.base + 1) = .ok z ∧ t.memRead (s.base + 2) = .ok o ∧
      h.toNat * 100 + z.toNat * 10 + o.toNat = (s.getV x).toNat ∧ h.toNat ≤ 2 ∧ z.toNat ≤ 9 ∧ o.toNat ≤ 9) ∧
    (∀ a, a < s.base ∨ s.base + 2 < a → t.memRead a = s.memRead a) ∧ NextPc s t ∧
    t = { s with mem := t.mem, pc := t.pc }) ∧
  (∀ (x : Reg) (s : State), 4096 ≤ s.base + 2 →
    exec (.ldB x) s = .next (Faulted s (.memoryFault (max s.base 4096))))

/-- FX55 (R204): Vk stands at I + k for k up to x, no other byte changes, and I is unchanged (the spec's decision D11);
where an address is past memory the machine faults at the lowest such address with no byte written (D21). -/
def Obligations.StoreWritesRegisters : Prop :=
  Encodes 0xF0FF 0xF055 (fun w => .ldMemStore (fieldX w)) ∧
  (∀ (x : Reg) (s : State), s.mem.wf = true → s.base + x.val < 4096 → ∃ t, exec (.ldMemStore x) s = .next t ∧
    (∀ k : Reg, k.val ≤ x.val → t.memRead (s.base + k.val) = .ok (s.getV k)) ∧
    (∀ a, a < s.base ∨ s.base + x.val < a → t.memRead a = s.memRead a) ∧ NextPc s t ∧
    t = { s with mem := t.mem, pc := t.pc }) ∧
  (∀ (x : Reg) (s : State), 4096 ≤ s.base + x.val →
    exec (.ldMemStore x) s = .next (Faulted s (.memoryFault (max s.base 4096))))

/-- FX65 (R205): Vk takes the byte at I + k for k up to x, every other register and I are unchanged (the spec's decision
D11); where an address is past memory the machine faults at the lowest such address with no register written (D21). -/
def Obligations.LoadReadsRegisters : Prop :=
  Encodes 0xF0FF 0xF065 (fun w => .ldMemLoad (fieldX w)) ∧
  (∀ (x : Reg) (s : State), s.base + x.val < 4096 → ∃ t, exec (.ldMemLoad x) s = .next t ∧
    (∀ k : Reg, k.val ≤ x.val → s.memRead (s.base + k.val) = .ok (t.getV k)) ∧ NextPc s t ∧
    OnlyRegs (fun r => r.val ≤ x.val) s t) ∧
  (∀ (x : Reg) (s : State), 4096 ≤ s.base + x.val →
    exec (.ldMemLoad x) s = .next (Faulted s (.memoryFault (max s.base 4096))))

/-- FX55 and then, whatever the registers have become, FX65 with the same I and x restores V0 to Vx (R205, marked as
derived). -/
def Obligations.StoreThenLoadRestores : Prop :=
  ∀ (x : Reg) (s t u w : State), s.mem.wf = true → s.base + x.val < 4096 →
    exec (.ldMemStore x) s = .next t → u.mem = t.mem → u.i = s.i → exec (.ldMemLoad x) u = .next w →
    ∀ k : Reg, k.val ≤ x.val → w.getV k = s.getV k

/-! ## Display -/

/-- 00E0 (R231): every pixel is off, and nothing else but PC changes. -/
def Obligations.ClsClearsDisplay : Prop :=
  Encodes 0xFFFF 0x00E0 (fun _ => .cls) ∧
  ∀ s : State, ∃ t, exec .cls s = .next t ∧ (∀ x y, x < 64 → y < 32 → pixel t.disp x y = false) ∧ NextPc s t ∧
    t = { s with disp := t.disp, pc := t.pc } ∧ SameBytes s t

/-- DXYN (R232): a pixel is inverted exactly where the sprite covers it, both coordinates wrapping, and VF is 1 exactly
when some covered pixel was on; where a row is past memory the machine faults at the lowest such address with no pixel
and no VF written. The bit order, the wrap of the start coordinates, n = 0 and the sampling are the spec's decision
D14, the fault's precision D21. -/
def Obligations.DrawXorsSprite : Prop :=
  Encodes 0xF000 0xD000 (fun w => .drw (fieldX w) (fieldY w) (fieldN w)) ∧
  (∀ (x y : Reg) (n : Fin 16) (s : State), n.val = 0 ∨ s.base + n.val ≤ 4096 →
    ∃ t, exec (.drw x y n) s = .next t ∧
      (∀ px py, px < 64 → py < 32 → SpriteCovers s x y n.val px py → pixel t.disp px py = !pixel s.disp px py) ∧
      (∀ px py, px < 64 → py < 32 → ¬SpriteCovers s x y n.val px py → pixel t.disp px py = pixel s.disp px py) ∧
      ((∃ px py, px < 64 ∧ py < 32 ∧ SpriteCovers s x y n.val px py ∧ pixel s.disp px py = true) →
        t.getV 15 = 1) ∧
      ((∀ px py, px < 64 → py < 32 → SpriteCovers s x y n.val px py → pixel s.disp px py = false) →
        t.getV 15 = 0) ∧
      (∀ r : Reg, r ≠ 15 → t.getV r = s.getV r) ∧ NextPc s t ∧ SameBytes s t ∧
      t = { s with v := t.v, disp := t.disp, pc := t.pc }) ∧
  (∀ (x y : Reg) (n : Fin 16) (s : State), 1 ≤ n.val → 4096 < s.base + n.val →
    exec (.drw x y n) s = .next (Faulted s (.memoryFault (max s.base 4096))))

/-- Drawing the same sprite twice at the same place puts the display back as it was; and on a clear display the first
draw sets VF to 0 and the second sets it to 1 if the sprite has any set bit (R232 and its worked example; D14). -/
def Obligations.DrawTwiceRestoresDisplay : Prop :=
  ∀ (x y : Reg) (n : Fin 16) (s t u : State), x ≠ 15 → y ≠ 15 → s.base + n.val ≤ 4096 →
    exec (.drw x y n) s = .next t → exec (.drw x y n) t = .next u →
    u.disp = s.disp ∧
    (s.disp = clearDisplay → t.getV 15 = 0 ∧
      ((∃ px py, SpriteCovers s x y n.val px py) → u.getV 15 = 1))

/-! ## Keys and timers -/

/-- EX9E and EXA1 (R250, R251): skip if the key Vx names is pressed, or is not; an index of 16 or more faults with nothing
else written (the spec's decisions D15 and D21). -/
def Obligations.SkipsOnKey : Prop :=
  Encodes 0xF0FF 0xE09E (fun w => .skp (fieldX w)) ∧
  Encodes 0xF0FF 0xE0A1 (fun w => .sknp (fieldX w)) ∧
  (∀ (x : Reg) (s : State), (s.getV x).toNat < 16 → ∃ t, exec (.skp x) s = .next t ∧
    SkipPc (s.keys.getLsbD (s.getV x).toNat = true) s t ∧ OnlyPc s t) ∧
  (∀ (x : Reg) (s : State), (s.getV x).toNat < 16 → ∃ t, exec (.sknp x) s = .next t ∧
    SkipPc (s.keys.getLsbD (s.getV x).toNat = false) s t ∧ OnlyPc s t) ∧
  (∀ (x : Reg) (s : State), 16 ≤ (s.getV x).toNat →
    exec (.skp x) s = .next (Faulted s (.keyIndexFault (s.getV x))) ∧
    exec (.sknp x) s = .next (Faulted s (.keyIndexFault (s.getV x))))

/-- FX07 (R252): Vx takes the delay timer. -/
def Obligations.ReadDelayTimer : Prop :=
  Encodes 0xF0FF 0xF007 (fun w => .ldVxDt (fieldX w)) ∧
  ∀ (x : Reg) (s : State), ∃ t, exec (.ldVxDt x) s = .next t ∧ t.getV x = s.dt ∧ NextPc s t ∧ OnlyRegs (· = x) s t

/-- FX15 and FX18 (R254, R255): the delay timer and the sound timer take Vx; the tick that may follow in the same step is
not part of the instruction (R120), and `sound_on` does not change here (D18). -/
def Obligations.WriteTimers : Prop :=
  Encodes 0xF0FF 0xF015 (fun w => .ldDt (fieldX w)) ∧
  Encodes 0xF0FF 0xF018 (fun w => .ldSt (fieldX w)) ∧
  (∀ (x : Reg) (s : State), ∃ t, exec (.ldDt x) s = .next t ∧ t.dt = s.getV x ∧ NextPc s t ∧ SameBytes s t ∧
    t = { s with dt := t.dt, pc := t.pc }) ∧
  (∀ (x : Reg) (s : State), ∃ t, exec (.ldSt x) s = .next t ∧ t.st = s.getV x ∧ NextPc s t ∧ SameBytes s t ∧
    t = { s with st := t.st, pc := t.pc })

/-- FX0A (R253): the smallest pressed key's index goes to Vx; with no key pressed nothing at all is written and PC is held.
Level-sensitive and smallest first by the spec's decision D16. -/
def Obligations.WaitTakesSmallestKey : Prop :=
  Encodes 0xF0FF 0xF00A (fun w => .ldVxK (fieldX w)) ∧
  (∀ (x : Reg) (s : State) (k : Nat), k < 16 → s.keys.getLsbD k = true → (∀ j, j < k → s.keys.getLsbD j = false) →
    ∃ t, exec (.ldVxK x) s = .next t ∧ (t.getV x).toNat = k ∧ NextPc s t ∧ OnlyRegs (· = x) s t) ∧
  (∀ (x : Reg) (s : State), (∀ k, k < 16 → s.keys.getLsbD k = false) → exec (.ldVxK x) s = .next s)

/-- `awaiting_key` is on exactly when STATUS is Running, the word at PC decodes as FX0A and KEYS is all zero (R35, R36,
the spec's decision D16). While it is on, a step changes nothing but DT, ST, KEYS, STEPCNT and the outputs `fb_out` and
`sound_on` (with the count of key snapshots, log entry 4), and holds PC (R253, which marks the ticks of the wait as
derived). The same holds of a running machine at a 1NNN that jumps to itself (R141, R311): neither ends by itself. -/
def Obligations.AwaitingKeyHoldsTheProgram : Prop :=
  (∀ s : State, s.awaitingKey = true ↔
    s.status = .running ∧ (∃ w x, s.fetch = .ok w ∧ decode w = .instr (.ldVxK x)) ∧
      ∀ j, j < 16 → s.keys.getLsbD j = false) ∧
  (∀ (p : Nat) (k : Keys) (s : State), s.awaitingKey = true ∨ (s.status = .running ∧ s.selfJump = true) →
    ∃ t, stepWith p k s = .next t ∧
      t = { s with dt := t.dt, st := t.st, keys := t.keys, stepCnt := t.stepCnt, fbOut := t.fbOut,
                   soundOn := t.soundOn, keyDraws := t.keyDraws })
end

