-- ==== Sys2Proof/Laws/Decode.lean ====
section
/-! SUPPORT. The laws of words and fields: what each field of a packed word is, what a mask and match say of the
fields (`30_encoding.md` R91, R96), and words as bytes. -/

namespace Sys2Proof

/-! ### The bits of packed words -/

theorem wordOfBytes_bit (hi lo : Byte) (j : Nat) :
    (wordOfBytes hi lo).getLsbD j = if j < 8 then lo.getLsbD j else hi.getLsbD (j - 8) :=
  BitVec.getLsbD_append (x := hi) (y := lo)

theorem packXNN_bit (op : BitVec 4) (x : Reg) (nn : Byte) (j : Nat) :
    (packXNN op x nn).getLsbD j =
      if j < 8 then nn.getLsbD j else if j < 12 then (regBits x).getLsbD (j - 8) else op.getLsbD (j - 12) := by
  refine (BitVec.getLsbD_append (x := op ++ regBits x) (y := nn)).trans ?_
  simp only [BitVec.getLsbD_append]
  split
  · rfl
  · have e : j - 8 - 4 = j - 12 := by omega
    rw [e]
    exact if_congr (by omega) rfl rfl

theorem packXYN_bit (op : BitVec 4) (x y n : Fin 16) (j : Nat) :
    (packXYN op x y n).getLsbD j =
      if j < 4 then (regBits n).getLsbD j else if j < 8 then (regBits y).getLsbD (j - 4)
      else if j < 12 then (regBits x).getLsbD (j - 8) else op.getLsbD (j - 12) := by
  refine (BitVec.getLsbD_append (x := op ++ regBits x ++ regBits y) (y := regBits n)).trans ?_
  simp only [BitVec.getLsbD_append]
  split
  · rfl
  · have e : j - 4 - 4 = j - 8 := by omega
    have e' : j - 8 - 4 = j - 12 := by omega
    rw [e, e']
    exact if_congr (by omega) rfl (if_congr (by omega) rfl rfl)

theorem packNNN_bit (op : BitVec 4) (nnn : Word) (j : Nat) :
    (packNNN op nnn).getLsbD j =
      if j < 12 then (nnn.extractLsb' 0 12).getLsbD j else op.getLsbD (j - 12) :=
  BitVec.getLsbD_append (x := op) (y := nnn.extractLsb' 0 12)

/-! ### Words and bytes (R64) -/

/-- The two bytes of a word give it back. -/
@[simp] theorem wordOfBytes_split (w : Word) : wordOfBytes (highByte w) (lowByte w) = w := by
  apply BitVec.eq_of_getLsbD_eq
  intro k hk
  simp only [wordOfBytes_bit, highByte, lowByte, BitVec.getLsbD_extractLsb']
  split
  · next h => simp [h]
  · have : k - 8 < 8 := by omega
    simp [this, show 8 + (k - 8) = k by omega]

@[simp] theorem highByte_wordOfBytes (hi lo : Byte) : highByte (wordOfBytes hi lo) = hi := by
  apply BitVec.eq_of_getLsbD_eq
  intro k hk
  simp only [highByte, BitVec.getLsbD_extractLsb', wordOfBytes_bit, hk, decide_true, Bool.true_and]
  rw [if_neg (by omega), Nat.add_sub_cancel_left]

@[simp] theorem lowByte_wordOfBytes (hi lo : Byte) : lowByte (wordOfBytes hi lo) = lo := by
  apply BitVec.eq_of_getLsbD_eq
  intro k hk
  simp [lowByte, BitVec.getLsbD_extractLsb', wordOfBytes_bit, hk, -BitVec.getLsbD_eq_getElem]

/-- A 16-bit row of the opcode table is its word. -/
@[simp] theorem tableWord_16 (w : Nat) : tableWord 16 w = BitVec.ofNat 16 w := by
  apply BitVec.eq_of_toNat_eq
  simp [tableWord]

/-- Of a 16-bit row the table word's reading is what `decode` gives. -/
theorem decodeTableWord_eq (nbits w : Nat) :
    decodeTableWord nbits w = match decode (tableWord nbits w) with
      | .instr i => some i
      | .unrecognized _ => none := by
  simp only [decodeTableWord, decodeBytes, wordOfBytes_split]
  cases decode (tableWord nbits w) <;> rfl

/-! ### The fields of a packed word -/

section
variable (op : BitVec 4) (x y n : Fin 16) (nn : Byte) (nnn : Word)

@[simp] theorem fieldOp_packXNN : fieldOp (packXNN op x nn) = op := by
  have bits : (packXNN op x nn).extractLsb' 12 4 = op := by
    apply BitVec.eq_of_getLsbD_eq
    intro k hk
    rw [BitVec.getLsbD_extractLsb', packXNN_bit]
    simp only [hk, decide_true, Bool.true_and, show ¬12 + k < 8 by omega, show ¬12 + k < 12 by omega, show 12 + k - 12 = k by omega, if_false]
  rw [fieldOp, bits]

@[simp] theorem fieldX_packXNN : fieldX (packXNN op x nn) = x := by
  have bits : (packXNN op x nn).extractLsb' 8 4 = regBits x := by
    apply BitVec.eq_of_getLsbD_eq
    intro k hk
    rw [BitVec.getLsbD_extractLsb', packXNN_bit]
    simp only [hk, decide_true, Bool.true_and, show ¬8 + k < 8 by omega, show 8 + k < 12 by omega, show 8 + k - 8 = k by omega, if_true, if_false]
  rw [fieldX, bits]; rfl

@[simp] theorem fieldNN_packXNN : fieldNN (packXNN op x nn) = nn := by
  have bits : (packXNN op x nn).extractLsb' 0 8 = nn := by
    apply BitVec.eq_of_getLsbD_eq
    intro k hk
    rw [BitVec.getLsbD_extractLsb', packXNN_bit]
    simp only [hk, decide_true, Bool.true_and, if_true, Nat.zero_add]
  rw [fieldNN, bits]

@[simp] theorem fieldOp_packXYN : fieldOp (packXYN op x y n) = op := by
  have bits : (packXYN op x y n).extractLsb' 12 4 = op := by
    apply BitVec.eq_of_getLsbD_eq
    intro k hk
    rw [BitVec.getLsbD_extractLsb', packXYN_bit]
    simp only [hk, decide_true, Bool.true_and, show ¬12 + k < 4 by omega, show ¬12 + k < 8 by omega, show ¬12 + k < 12 by omega, show 12 + k - 12 = k by omega, if_false]
  rw [fieldOp, bits]

@[simp] theorem fieldX_packXYN : fieldX (packXYN op x y n) = x := by
  have bits : (packXYN op x y n).extractLsb' 8 4 = regBits x := by
    apply BitVec.eq_of_getLsbD_eq
    intro k hk
    rw [BitVec.getLsbD_extractLsb', packXYN_bit]
    simp only [hk, decide_true, Bool.true_and, show ¬8 + k < 4 by omega, show ¬8 + k < 8 by omega, show 8 + k < 12 by omega, show 8 + k - 8 = k by omega, if_true, if_false]
  rw [fieldX, bits]; rfl

@[simp] theorem fieldY_packXYN : fieldY (packXYN op x y n) = y := by
  have bits : (packXYN op x y n).extractLsb' 4 4 = regBits y := by
    apply BitVec.eq_of_getLsbD_eq
    intro k hk
    rw [BitVec.getLsbD_extractLsb', packXYN_bit]
    simp only [hk, decide_true, Bool.true_and, show ¬4 + k < 4 by omega, show 4 + k < 8 by omega, show 4 + k - 4 = k by omega, if_true, if_false]
  rw [fieldY, bits]; rfl

@[simp] theorem fieldN_packXYN : fieldN (packXYN op x y n) = n := by
  have bits : (packXYN op x y n).extractLsb' 0 4 = regBits n := by
    apply BitVec.eq_of_getLsbD_eq
    intro k hk
    rw [BitVec.getLsbD_extractLsb', packXYN_bit]
    simp only [hk, decide_true, Bool.true_and, if_true, Nat.zero_add]
  rw [fieldN, bits]; rfl

@[simp] theorem fieldOp_packNNN : fieldOp (packNNN op nnn) = op := by
  have bits : (packNNN op nnn).extractLsb' 12 4 = op := by
    apply BitVec.eq_of_getLsbD_eq
    intro k hk
    rw [BitVec.getLsbD_extractLsb', packNNN_bit]
    simp only [hk, decide_true, Bool.true_and, show ¬12 + k < 12 by omega, show 12 + k - 12 = k by omega, if_false]
  rw [fieldOp, bits]

/-- Of a well-formed address nothing is lost (R92). -/
theorem fieldNNN_packNNN (h : nnnInRange nnn = true) : fieldNNN (packNNN op nnn) = nnn := by
  have lt : nnn.toNat < 2 ^ 12 := of_decide_eq_true h
  apply BitVec.eq_of_getLsbD_eq
  intro k hk
  simp only [fieldNNN, BitVec.getLsbD_setWidth, BitVec.getLsbD_extractLsb', packNNN_bit]
  by_cases hk' : k < 12
  · simp [hk, hk', -BitVec.getLsbD_eq_getElem]
  · have : nnn.getLsbD k = false :=
      Nat.testBit_lt_two_pow (lt.trans_le (Nat.pow_le_pow_right (by decide) (by omega)))
    simp [hk', this]

end

/-- A decoded address field is well formed (R92). -/
theorem fieldNNN_inRange (w : Word) : nnnInRange (fieldNNN w) = true := by
  apply decide_eq_true
  have := (w.extractLsb' 0 12).isLt
  simp only [fieldNNN, BitVec.toNat_setWidth]
  omega

/-! ### What a mask and match say of the fields (R96) -/

/-- The full mask leaves a word as it is. -/
theorem mask_all (w : Word) : w &&& 0xFFFF#16 = w := BitVec.and_allOnes

theorem op_of_mask {w k : Word} (h : w &&& 0xF000#16 = k) : fieldOp w = k.extractLsb' 12 4 := by
  subst h
  rw [fieldOp, BitVec.extractLsb'_and, show (0xF000#16).extractLsb' 12 4 = BitVec.allOnes 4 from rfl,
    BitVec.and_allOnes]

theorem op_of_mask_n {w k : Word} (h : w &&& 0xF00F#16 = k) :
    fieldOp w = k.extractLsb' 12 4 ∧ fieldN w = (k.extractLsb' 0 4).toFin := by
  subst h
  constructor
  · rw [fieldOp, BitVec.extractLsb'_and, show (0xF00F#16).extractLsb' 12 4 = BitVec.allOnes 4 from rfl,
      BitVec.and_allOnes]
  · rw [fieldN, BitVec.extractLsb'_and, show (0xF00F#16).extractLsb' 0 4 = BitVec.allOnes 4 from rfl,
      BitVec.and_allOnes]

theorem op_of_mask_nn {w k : Word} (h : w &&& 0xF0FF#16 = k) :
    fieldOp w = k.extractLsb' 12 4 ∧ fieldNN w = k.extractLsb' 0 8 := by
  subst h
  constructor
  · rw [fieldOp, BitVec.extractLsb'_and, show (0xF0FF#16).extractLsb' 12 4 = BitVec.allOnes 4 from rfl,
      BitVec.and_allOnes]
  · rw [fieldNN, BitVec.extractLsb'_and, show (0xF0FF#16).extractLsb' 0 8 = BitVec.allOnes 8 from rfl,
      BitVec.and_allOnes]

/-- A word under the mask of its leading nibble is that nibble and zeros. -/
theorem mask_op (w : Word) : w &&& 0xF000#16 = packNNN (fieldOp w) 0 := by
  apply BitVec.eq_of_getLsbD_eq
  intro k hk
  have m : ∀ j < 16, (0xF000#16).getLsbD j = decide (12 ≤ j) := by decide
  rw [BitVec.getLsbD_and, m k hk, packNNN_bit, fieldOp, BitVec.getLsbD_extractLsb', BitVec.getLsbD_extractLsb']
  by_cases h : k < 12
  · simp [h, show ¬12 ≤ k by omega]
  · simp [h, show 12 ≤ k by omega, show k - 12 < 4 by omega, show 12 + (k - 12) = k by omega]

/-- A word under the mask of its first and last nibbles. -/
theorem mask_op_n (w : Word) : w &&& 0xF00F#16 = packXYN (fieldOp w) 0 0 (fieldN w) := by
  apply BitVec.eq_of_getLsbD_eq
  intro k hk
  have m : ∀ j < 16, (0xF00F#16).getLsbD j = (decide (12 ≤ j) || decide (j < 4)) := by decide
  have z : ∀ j, (regBits 0).getLsbD j = false := fun j => by simp [regBits]
  rw [BitVec.getLsbD_and, m k hk, packXYN_bit, z, z, show regBits (fieldN w) = w.extractLsb' 0 4 from rfl, fieldOp,
    BitVec.getLsbD_extractLsb', BitVec.getLsbD_extractLsb']
  by_cases h : k < 4
  · simp [h]
  · by_cases h' : k < 12
    · simp [h, h', show ¬12 ≤ k by omega]
    · simp [h, h', show ¬k < 8 by omega, show 12 ≤ k by omega, show k - 12 < 4 by omega,
        show 12 + (k - 12) = k by omega]

/-- A word under the mask of its first nibble and low byte. -/
theorem mask_op_nn (w : Word) : w &&& 0xF0FF#16 = packXNN (fieldOp w) 0 (fieldNN w) := by
  apply BitVec.eq_of_getLsbD_eq
  intro k hk
  have m : ∀ j < 16, (0xF0FF#16).getLsbD j = (decide (12 ≤ j) || decide (j < 8)) := by decide
  have z : ∀ j, (regBits 0).getLsbD j = false := fun j => by simp [regBits]
  rw [BitVec.getLsbD_and, m k hk, packXNN_bit, z, fieldNN, fieldOp, BitVec.getLsbD_extractLsb',
    BitVec.getLsbD_extractLsb']
  by_cases h : k < 8
  · simp [h]
  · by_cases h' : k < 12
    · simp [h, h', show ¬12 ≤ k by omega]
    · simp [h, h', show 12 ≤ k by omega, show k - 12 < 4 by omega, show 12 + (k - 12) = k by omega]

end Sys2Proof
end

