-- ==== Sys2Proof/Laws/State.lean ====
section
/-! SUPPORT. The state updates, field by field: what each named update does to each field, so that no proof
unfolds a record update. -/

namespace Sys2Proof.Machine

variable (s : State)

/-! ### setMem -/

@[simp] theorem State.setMem_mem (m : Memory) : (s.setMem m).mem = m := rfl
@[simp] theorem State.setMem_v (m : Memory) : (s.setMem m).v = s.v := rfl
@[simp] theorem State.setMem_i (m : Memory) : (s.setMem m).i = s.i := rfl
@[simp] theorem State.setMem_pc (m : Memory) : (s.setMem m).pc = s.pc := rfl
@[simp] theorem State.setMem_sp (m : Memory) : (s.setMem m).sp = s.sp := rfl
@[simp] theorem State.setMem_stack (m : Memory) : (s.setMem m).stack = s.stack := rfl
@[simp] theorem State.setMem_dt (m : Memory) : (s.setMem m).dt = s.dt := rfl
@[simp] theorem State.setMem_st (m : Memory) : (s.setMem m).st = s.st := rfl
@[simp] theorem State.setMem_disp (m : Memory) : (s.setMem m).disp = s.disp := rfl
@[simp] theorem State.setMem_keys (m : Memory) : (s.setMem m).keys = s.keys := rfl
@[simp] theorem State.setMem_stepCnt (m : Memory) : (s.setMem m).stepCnt = s.stepCnt := rfl
@[simp] theorem State.setMem_status (m : Memory) : (s.setMem m).status = s.status := rfl
@[simp] theorem State.setMem_fbOut (m : Memory) : (s.setMem m).fbOut = s.fbOut := rfl
@[simp] theorem State.setMem_soundOn (m : Memory) : (s.setMem m).soundOn = s.soundOn := rfl
@[simp] theorem State.setMem_diag (m : Memory) : (s.setMem m).diag = s.diag := rfl
@[simp] theorem State.setMem_randDraws (m : Memory) : (s.setMem m).randDraws = s.randDraws := rfl
@[simp] theorem State.setMem_keyDraws (m : Memory) : (s.setMem m).keyDraws = s.keyDraws := rfl

/-! ### setStack -/

@[simp] theorem State.setStack_mem (k : Vector Word 16) (n : Fin 17) : (s.setStack k n).mem = s.mem := rfl
@[simp] theorem State.setStack_v (k : Vector Word 16) (n : Fin 17) : (s.setStack k n).v = s.v := rfl
@[simp] theorem State.setStack_i (k : Vector Word 16) (n : Fin 17) : (s.setStack k n).i = s.i := rfl
@[simp] theorem State.setStack_pc (k : Vector Word 16) (n : Fin 17) : (s.setStack k n).pc = s.pc := rfl
@[simp] theorem State.setStack_sp (k : Vector Word 16) (n : Fin 17) : (s.setStack k n).sp = n := rfl
@[simp] theorem State.setStack_stack (k : Vector Word 16) (n : Fin 17) : (s.setStack k n).stack = k := rfl
@[simp] theorem State.setStack_dt (k : Vector Word 16) (n : Fin 17) : (s.setStack k n).dt = s.dt := rfl
@[simp] theorem State.setStack_st (k : Vector Word 16) (n : Fin 17) : (s.setStack k n).st = s.st := rfl
@[simp] theorem State.setStack_disp (k : Vector Word 16) (n : Fin 17) : (s.setStack k n).disp = s.disp := rfl
@[simp] theorem State.setStack_keys (k : Vector Word 16) (n : Fin 17) : (s.setStack k n).keys = s.keys := rfl
@[simp] theorem State.setStack_stepCnt (k : Vector Word 16) (n : Fin 17) : (s.setStack k n).stepCnt = s.stepCnt := rfl
@[simp] theorem State.setStack_status (k : Vector Word 16) (n : Fin 17) : (s.setStack k n).status = s.status := rfl
@[simp] theorem State.setStack_fbOut (k : Vector Word 16) (n : Fin 17) : (s.setStack k n).fbOut = s.fbOut := rfl
@[simp] theorem State.setStack_soundOn (k : Vector Word 16) (n : Fin 17) : (s.setStack k n).soundOn = s.soundOn := rfl
@[simp] theorem State.setStack_diag (k : Vector Word 16) (n : Fin 17) : (s.setStack k n).diag = s.diag := rfl
@[simp] theorem State.setStack_randDraws (k : Vector Word 16) (n : Fin 17) : (s.setStack k n).randDraws = s.randDraws := rfl
@[simp] theorem State.setStack_keyDraws (k : Vector Word 16) (n : Fin 17) : (s.setStack k n).keyDraws = s.keyDraws := rfl

/-! ### setV -/

@[simp] theorem State.setV_mem (x : Reg) (b : Byte) : (s.setV x b).mem = s.mem := rfl
@[simp] theorem State.setV_v (x : Reg) (b : Byte) : (s.setV x b).v = s.v.set x.val b x.isLt := rfl
@[simp] theorem State.setV_i (x : Reg) (b : Byte) : (s.setV x b).i = s.i := rfl
@[simp] theorem State.setV_pc (x : Reg) (b : Byte) : (s.setV x b).pc = s.pc := rfl
@[simp] theorem State.setV_sp (x : Reg) (b : Byte) : (s.setV x b).sp = s.sp := rfl
@[simp] theorem State.setV_stack (x : Reg) (b : Byte) : (s.setV x b).stack = s.stack := rfl
@[simp] theorem State.setV_dt (x : Reg) (b : Byte) : (s.setV x b).dt = s.dt := rfl
@[simp] theorem State.setV_st (x : Reg) (b : Byte) : (s.setV x b).st = s.st := rfl
@[simp] theorem State.setV_disp (x : Reg) (b : Byte) : (s.setV x b).disp = s.disp := rfl
@[simp] theorem State.setV_keys (x : Reg) (b : Byte) : (s.setV x b).keys = s.keys := rfl
@[simp] theorem State.setV_stepCnt (x : Reg) (b : Byte) : (s.setV x b).stepCnt = s.stepCnt := rfl
@[simp] theorem State.setV_status (x : Reg) (b : Byte) : (s.setV x b).status = s.status := rfl
@[simp] theorem State.setV_fbOut (x : Reg) (b : Byte) : (s.setV x b).fbOut = s.fbOut := rfl
@[simp] theorem State.setV_soundOn (x : Reg) (b : Byte) : (s.setV x b).soundOn = s.soundOn := rfl
@[simp] theorem State.setV_diag (x : Reg) (b : Byte) : (s.setV x b).diag = s.diag := rfl
@[simp] theorem State.setV_randDraws (x : Reg) (b : Byte) : (s.setV x b).randDraws = s.randDraws := rfl
@[simp] theorem State.setV_keyDraws (x : Reg) (b : Byte) : (s.setV x b).keyDraws = s.keyDraws := rfl

/-! ### setI -/

@[simp] theorem State.setI_mem (a : Word) : (s.setI a).mem = s.mem := rfl
@[simp] theorem State.setI_v (a : Word) : (s.setI a).v = s.v := rfl
@[simp] theorem State.setI_i (a : Word) : (s.setI a).i = a := rfl
@[simp] theorem State.setI_pc (a : Word) : (s.setI a).pc = s.pc := rfl
@[simp] theorem State.setI_sp (a : Word) : (s.setI a).sp = s.sp := rfl
@[simp] theorem State.setI_stack (a : Word) : (s.setI a).stack = s.stack := rfl
@[simp] theorem State.setI_dt (a : Word) : (s.setI a).dt = s.dt := rfl
@[simp] theorem State.setI_st (a : Word) : (s.setI a).st = s.st := rfl
@[simp] theorem State.setI_disp (a : Word) : (s.setI a).disp = s.disp := rfl
@[simp] theorem State.setI_keys (a : Word) : (s.setI a).keys = s.keys := rfl
@[simp] theorem State.setI_stepCnt (a : Word) : (s.setI a).stepCnt = s.stepCnt := rfl
@[simp] theorem State.setI_status (a : Word) : (s.setI a).status = s.status := rfl
@[simp] theorem State.setI_fbOut (a : Word) : (s.setI a).fbOut = s.fbOut := rfl
@[simp] theorem State.setI_soundOn (a : Word) : (s.setI a).soundOn = s.soundOn := rfl
@[simp] theorem State.setI_diag (a : Word) : (s.setI a).diag = s.diag := rfl
@[simp] theorem State.setI_randDraws (a : Word) : (s.setI a).randDraws = s.randDraws := rfl
@[simp] theorem State.setI_keyDraws (a : Word) : (s.setI a).keyDraws = s.keyDraws := rfl

/-! ### setDt -/

@[simp] theorem State.setDt_mem (b : Byte) : (s.setDt b).mem = s.mem := rfl
@[simp] theorem State.setDt_v (b : Byte) : (s.setDt b).v = s.v := rfl
@[simp] theorem State.setDt_i (b : Byte) : (s.setDt b).i = s.i := rfl
@[simp] theorem State.setDt_pc (b : Byte) : (s.setDt b).pc = s.pc := rfl
@[simp] theorem State.setDt_sp (b : Byte) : (s.setDt b).sp = s.sp := rfl
@[simp] theorem State.setDt_stack (b : Byte) : (s.setDt b).stack = s.stack := rfl
@[simp] theorem State.setDt_dt (b : Byte) : (s.setDt b).dt = b := rfl
@[simp] theorem State.setDt_st (b : Byte) : (s.setDt b).st = s.st := rfl
@[simp] theorem State.setDt_disp (b : Byte) : (s.setDt b).disp = s.disp := rfl
@[simp] theorem State.setDt_keys (b : Byte) : (s.setDt b).keys = s.keys := rfl
@[simp] theorem State.setDt_stepCnt (b : Byte) : (s.setDt b).stepCnt = s.stepCnt := rfl
@[simp] theorem State.setDt_status (b : Byte) : (s.setDt b).status = s.status := rfl
@[simp] theorem State.setDt_fbOut (b : Byte) : (s.setDt b).fbOut = s.fbOut := rfl
@[simp] theorem State.setDt_soundOn (b : Byte) : (s.setDt b).soundOn = s.soundOn := rfl
@[simp] theorem State.setDt_diag (b : Byte) : (s.setDt b).diag = s.diag := rfl
@[simp] theorem State.setDt_randDraws (b : Byte) : (s.setDt b).randDraws = s.randDraws := rfl
@[simp] theorem State.setDt_keyDraws (b : Byte) : (s.setDt b).keyDraws = s.keyDraws := rfl

/-! ### setSt -/

@[simp] theorem State.setSt_mem (b : Byte) : (s.setSt b).mem = s.mem := rfl
@[simp] theorem State.setSt_v (b : Byte) : (s.setSt b).v = s.v := rfl
@[simp] theorem State.setSt_i (b : Byte) : (s.setSt b).i = s.i := rfl
@[simp] theorem State.setSt_pc (b : Byte) : (s.setSt b).pc = s.pc := rfl
@[simp] theorem State.setSt_sp (b : Byte) : (s.setSt b).sp = s.sp := rfl
@[simp] theorem State.setSt_stack (b : Byte) : (s.setSt b).stack = s.stack := rfl
@[simp] theorem State.setSt_dt (b : Byte) : (s.setSt b).dt = s.dt := rfl
@[simp] theorem State.setSt_st (b : Byte) : (s.setSt b).st = b := rfl
@[simp] theorem State.setSt_disp (b : Byte) : (s.setSt b).disp = s.disp := rfl
@[simp] theorem State.setSt_keys (b : Byte) : (s.setSt b).keys = s.keys := rfl
@[simp] theorem State.setSt_stepCnt (b : Byte) : (s.setSt b).stepCnt = s.stepCnt := rfl
@[simp] theorem State.setSt_status (b : Byte) : (s.setSt b).status = s.status := rfl
@[simp] theorem State.setSt_fbOut (b : Byte) : (s.setSt b).fbOut = s.fbOut := rfl
@[simp] theorem State.setSt_soundOn (b : Byte) : (s.setSt b).soundOn = s.soundOn := rfl
@[simp] theorem State.setSt_diag (b : Byte) : (s.setSt b).diag = s.diag := rfl
@[simp] theorem State.setSt_randDraws (b : Byte) : (s.setSt b).randDraws = s.randDraws := rfl
@[simp] theorem State.setSt_keyDraws (b : Byte) : (s.setSt b).keyDraws = s.keyDraws := rfl

/-! ### setDisp -/

@[simp] theorem State.setDisp_mem (d : Display) : (s.setDisp d).mem = s.mem := rfl
@[simp] theorem State.setDisp_v (d : Display) : (s.setDisp d).v = s.v := rfl
@[simp] theorem State.setDisp_i (d : Display) : (s.setDisp d).i = s.i := rfl
@[simp] theorem State.setDisp_pc (d : Display) : (s.setDisp d).pc = s.pc := rfl
@[simp] theorem State.setDisp_sp (d : Display) : (s.setDisp d).sp = s.sp := rfl
@[simp] theorem State.setDisp_stack (d : Display) : (s.setDisp d).stack = s.stack := rfl
@[simp] theorem State.setDisp_dt (d : Display) : (s.setDisp d).dt = s.dt := rfl
@[simp] theorem State.setDisp_st (d : Display) : (s.setDisp d).st = s.st := rfl
@[simp] theorem State.setDisp_disp (d : Display) : (s.setDisp d).disp = d := rfl
@[simp] theorem State.setDisp_keys (d : Display) : (s.setDisp d).keys = s.keys := rfl
@[simp] theorem State.setDisp_stepCnt (d : Display) : (s.setDisp d).stepCnt = s.stepCnt := rfl
@[simp] theorem State.setDisp_status (d : Display) : (s.setDisp d).status = s.status := rfl
@[simp] theorem State.setDisp_fbOut (d : Display) : (s.setDisp d).fbOut = s.fbOut := rfl
@[simp] theorem State.setDisp_soundOn (d : Display) : (s.setDisp d).soundOn = s.soundOn := rfl
@[simp] theorem State.setDisp_diag (d : Display) : (s.setDisp d).diag = s.diag := rfl
@[simp] theorem State.setDisp_randDraws (d : Display) : (s.setDisp d).randDraws = s.randDraws := rfl
@[simp] theorem State.setDisp_keyDraws (d : Display) : (s.setDisp d).keyDraws = s.keyDraws := rfl

/-! ### jump -/

@[simp] theorem State.jump_mem (a : Word) : (s.jump a).mem = s.mem := rfl
@[simp] theorem State.jump_v (a : Word) : (s.jump a).v = s.v := rfl
@[simp] theorem State.jump_i (a : Word) : (s.jump a).i = s.i := rfl
@[simp] theorem State.jump_pc (a : Word) : (s.jump a).pc = a := rfl
@[simp] theorem State.jump_sp (a : Word) : (s.jump a).sp = s.sp := rfl
@[simp] theorem State.jump_stack (a : Word) : (s.jump a).stack = s.stack := rfl
@[simp] theorem State.jump_dt (a : Word) : (s.jump a).dt = s.dt := rfl
@[simp] theorem State.jump_st (a : Word) : (s.jump a).st = s.st := rfl
@[simp] theorem State.jump_disp (a : Word) : (s.jump a).disp = s.disp := rfl
@[simp] theorem State.jump_keys (a : Word) : (s.jump a).keys = s.keys := rfl
@[simp] theorem State.jump_stepCnt (a : Word) : (s.jump a).stepCnt = s.stepCnt := rfl
@[simp] theorem State.jump_status (a : Word) : (s.jump a).status = s.status := rfl
@[simp] theorem State.jump_fbOut (a : Word) : (s.jump a).fbOut = s.fbOut := rfl
@[simp] theorem State.jump_soundOn (a : Word) : (s.jump a).soundOn = s.soundOn := rfl
@[simp] theorem State.jump_diag (a : Word) : (s.jump a).diag = s.diag := rfl
@[simp] theorem State.jump_randDraws (a : Word) : (s.jump a).randDraws = s.randDraws := rfl
@[simp] theorem State.jump_keyDraws (a : Word) : (s.jump a).keyDraws = s.keyDraws := rfl

/-! ### advance -/

@[simp] theorem State.advance_mem : (s.advance).mem = s.mem := rfl
@[simp] theorem State.advance_v : (s.advance).v = s.v := rfl
@[simp] theorem State.advance_i : (s.advance).i = s.i := rfl
@[simp] theorem State.advance_pc : (s.advance).pc = s.pc + 2 := rfl
@[simp] theorem State.advance_sp : (s.advance).sp = s.sp := rfl
@[simp] theorem State.advance_stack : (s.advance).stack = s.stack := rfl
@[simp] theorem State.advance_dt : (s.advance).dt = s.dt := rfl
@[simp] theorem State.advance_st : (s.advance).st = s.st := rfl
@[simp] theorem State.advance_disp : (s.advance).disp = s.disp := rfl
@[simp] theorem State.advance_keys : (s.advance).keys = s.keys := rfl
@[simp] theorem State.advance_stepCnt : (s.advance).stepCnt = s.stepCnt := rfl
@[simp] theorem State.advance_status : (s.advance).status = s.status := rfl
@[simp] theorem State.advance_fbOut : (s.advance).fbOut = s.fbOut := rfl
@[simp] theorem State.advance_soundOn : (s.advance).soundOn = s.soundOn := rfl
@[simp] theorem State.advance_diag : (s.advance).diag = s.diag := rfl
@[simp] theorem State.advance_randDraws : (s.advance).randDraws = s.randDraws := rfl
@[simp] theorem State.advance_keyDraws : (s.advance).keyDraws = s.keyDraws := rfl

/-! ### skip -/

@[simp] theorem State.skip_mem : (s.skip).mem = s.mem := rfl
@[simp] theorem State.skip_v : (s.skip).v = s.v := rfl
@[simp] theorem State.skip_i : (s.skip).i = s.i := rfl
@[simp] theorem State.skip_pc : (s.skip).pc = s.pc + 4 := rfl
@[simp] theorem State.skip_sp : (s.skip).sp = s.sp := rfl
@[simp] theorem State.skip_stack : (s.skip).stack = s.stack := rfl
@[simp] theorem State.skip_dt : (s.skip).dt = s.dt := rfl
@[simp] theorem State.skip_st : (s.skip).st = s.st := rfl
@[simp] theorem State.skip_disp : (s.skip).disp = s.disp := rfl
@[simp] theorem State.skip_keys : (s.skip).keys = s.keys := rfl
@[simp] theorem State.skip_stepCnt : (s.skip).stepCnt = s.stepCnt := rfl
@[simp] theorem State.skip_status : (s.skip).status = s.status := rfl
@[simp] theorem State.skip_fbOut : (s.skip).fbOut = s.fbOut := rfl
@[simp] theorem State.skip_soundOn : (s.skip).soundOn = s.soundOn := rfl
@[simp] theorem State.skip_diag : (s.skip).diag = s.diag := rfl
@[simp] theorem State.skip_randDraws : (s.skip).randDraws = s.randDraws := rfl
@[simp] theorem State.skip_keyDraws : (s.skip).keyDraws = s.keyDraws := rfl

/-! ### setFlagThen -/

@[simp] theorem State.setFlagThen_mem (g : Byte) (x : Reg) (b : Byte) : (s.setFlagThen g x b).mem = s.mem := rfl
@[simp] theorem State.setFlagThen_v (g : Byte) (x : Reg) (b : Byte) : (s.setFlagThen g x b).v = ((s.setV vf g).setV x b).v := rfl
@[simp] theorem State.setFlagThen_i (g : Byte) (x : Reg) (b : Byte) : (s.setFlagThen g x b).i = s.i := rfl
@[simp] theorem State.setFlagThen_pc (g : Byte) (x : Reg) (b : Byte) : (s.setFlagThen g x b).pc = s.pc := rfl
@[simp] theorem State.setFlagThen_sp (g : Byte) (x : Reg) (b : Byte) : (s.setFlagThen g x b).sp = s.sp := rfl
@[simp] theorem State.setFlagThen_stack (g : Byte) (x : Reg) (b : Byte) : (s.setFlagThen g x b).stack = s.stack := rfl
@[simp] theorem State.setFlagThen_dt (g : Byte) (x : Reg) (b : Byte) : (s.setFlagThen g x b).dt = s.dt := rfl
@[simp] theorem State.setFlagThen_st (g : Byte) (x : Reg) (b : Byte) : (s.setFlagThen g x b).st = s.st := rfl
@[simp] theorem State.setFlagThen_disp (g : Byte) (x : Reg) (b : Byte) : (s.setFlagThen g x b).disp = s.disp := rfl
@[simp] theorem State.setFlagThen_keys (g : Byte) (x : Reg) (b : Byte) : (s.setFlagThen g x b).keys = s.keys := rfl
@[simp] theorem State.setFlagThen_stepCnt (g : Byte) (x : Reg) (b : Byte) : (s.setFlagThen g x b).stepCnt = s.stepCnt := rfl
@[simp] theorem State.setFlagThen_status (g : Byte) (x : Reg) (b : Byte) : (s.setFlagThen g x b).status = s.status := rfl
@[simp] theorem State.setFlagThen_fbOut (g : Byte) (x : Reg) (b : Byte) : (s.setFlagThen g x b).fbOut = s.fbOut := rfl
@[simp] theorem State.setFlagThen_soundOn (g : Byte) (x : Reg) (b : Byte) : (s.setFlagThen g x b).soundOn = s.soundOn := rfl
@[simp] theorem State.setFlagThen_diag (g : Byte) (x : Reg) (b : Byte) : (s.setFlagThen g x b).diag = s.diag := rfl
@[simp] theorem State.setFlagThen_randDraws (g : Byte) (x : Reg) (b : Byte) : (s.setFlagThen g x b).randDraws = s.randDraws := rfl
@[simp] theorem State.setFlagThen_keyDraws (g : Byte) (x : Reg) (b : Byte) : (s.setFlagThen g x b).keyDraws = s.keyDraws := rfl

/-! ### takeFault -/

@[simp] theorem State.takeFault_mem (f : Fault) : (s.takeFault f).mem = s.mem := rfl
@[simp] theorem State.takeFault_v (f : Fault) : (s.takeFault f).v = s.v := rfl
@[simp] theorem State.takeFault_i (f : Fault) : (s.takeFault f).i = s.i := rfl
@[simp] theorem State.takeFault_pc (f : Fault) : (s.takeFault f).pc = s.pc := rfl
@[simp] theorem State.takeFault_sp (f : Fault) : (s.takeFault f).sp = s.sp := rfl
@[simp] theorem State.takeFault_stack (f : Fault) : (s.takeFault f).stack = s.stack := rfl
@[simp] theorem State.takeFault_dt (f : Fault) : (s.takeFault f).dt = s.dt := rfl
@[simp] theorem State.takeFault_st (f : Fault) : (s.takeFault f).st = s.st := rfl
@[simp] theorem State.takeFault_disp (f : Fault) : (s.takeFault f).disp = s.disp := rfl
@[simp] theorem State.takeFault_keys (f : Fault) : (s.takeFault f).keys = s.keys := rfl
@[simp] theorem State.takeFault_stepCnt (f : Fault) : (s.takeFault f).stepCnt = s.stepCnt := rfl
@[simp] theorem State.takeFault_status (f : Fault) : (s.takeFault f).status = .faulted f s.pc := rfl
@[simp] theorem State.takeFault_fbOut (f : Fault) : (s.takeFault f).fbOut = s.fbOut := rfl
@[simp] theorem State.takeFault_soundOn (f : Fault) : (s.takeFault f).soundOn = s.soundOn := rfl
@[simp] theorem State.takeFault_diag (f : Fault) : (s.takeFault f).diag = s.diag := rfl
@[simp] theorem State.takeFault_randDraws (f : Fault) : (s.takeFault f).randDraws = s.randDraws := rfl
@[simp] theorem State.takeFault_keyDraws (f : Fault) : (s.takeFault f).keyDraws = s.keyDraws := rfl

/-! ### emitDiag -/

@[simp] theorem State.emitDiag_mem (w : Word) : (s.emitDiag w).mem = s.mem := rfl
@[simp] theorem State.emitDiag_v (w : Word) : (s.emitDiag w).v = s.v := rfl
@[simp] theorem State.emitDiag_i (w : Word) : (s.emitDiag w).i = s.i := rfl
@[simp] theorem State.emitDiag_pc (w : Word) : (s.emitDiag w).pc = s.pc := rfl
@[simp] theorem State.emitDiag_sp (w : Word) : (s.emitDiag w).sp = s.sp := rfl
@[simp] theorem State.emitDiag_stack (w : Word) : (s.emitDiag w).stack = s.stack := rfl
@[simp] theorem State.emitDiag_dt (w : Word) : (s.emitDiag w).dt = s.dt := rfl
@[simp] theorem State.emitDiag_st (w : Word) : (s.emitDiag w).st = s.st := rfl
@[simp] theorem State.emitDiag_disp (w : Word) : (s.emitDiag w).disp = s.disp := rfl
@[simp] theorem State.emitDiag_keys (w : Word) : (s.emitDiag w).keys = s.keys := rfl
@[simp] theorem State.emitDiag_stepCnt (w : Word) : (s.emitDiag w).stepCnt = s.stepCnt := rfl
@[simp] theorem State.emitDiag_status (w : Word) : (s.emitDiag w).status = s.status := rfl
@[simp] theorem State.emitDiag_fbOut (w : Word) : (s.emitDiag w).fbOut = s.fbOut := rfl
@[simp] theorem State.emitDiag_soundOn (w : Word) : (s.emitDiag w).soundOn = s.soundOn := rfl
@[simp] theorem State.emitDiag_diag (w : Word) : (s.emitDiag w).diag = s.diag ++ [⟨w, s.pc⟩] := rfl
@[simp] theorem State.emitDiag_randDraws (w : Word) : (s.emitDiag w).randDraws = s.randDraws := rfl
@[simp] theorem State.emitDiag_keyDraws (w : Word) : (s.emitDiag w).keyDraws = s.keyDraws := rfl

/-! ### consumeRand -/

@[simp] theorem State.consumeRand_mem : (s.consumeRand).mem = s.mem := rfl
@[simp] theorem State.consumeRand_v : (s.consumeRand).v = s.v := rfl
@[simp] theorem State.consumeRand_i : (s.consumeRand).i = s.i := rfl
@[simp] theorem State.consumeRand_pc : (s.consumeRand).pc = s.pc := rfl
@[simp] theorem State.consumeRand_sp : (s.consumeRand).sp = s.sp := rfl
@[simp] theorem State.consumeRand_stack : (s.consumeRand).stack = s.stack := rfl
@[simp] theorem State.consumeRand_dt : (s.consumeRand).dt = s.dt := rfl
@[simp] theorem State.consumeRand_st : (s.consumeRand).st = s.st := rfl
@[simp] theorem State.consumeRand_disp : (s.consumeRand).disp = s.disp := rfl
@[simp] theorem State.consumeRand_keys : (s.consumeRand).keys = s.keys := rfl
@[simp] theorem State.consumeRand_stepCnt : (s.consumeRand).stepCnt = s.stepCnt := rfl
@[simp] theorem State.consumeRand_status : (s.consumeRand).status = s.status := rfl
@[simp] theorem State.consumeRand_fbOut : (s.consumeRand).fbOut = s.fbOut := rfl
@[simp] theorem State.consumeRand_soundOn : (s.consumeRand).soundOn = s.soundOn := rfl
@[simp] theorem State.consumeRand_diag : (s.consumeRand).diag = s.diag := rfl
@[simp] theorem State.consumeRand_randDraws : (s.consumeRand).randDraws = s.randDraws + 1 := rfl
@[simp] theorem State.consumeRand_keyDraws : (s.consumeRand).keyDraws = s.keyDraws := rfl

/-! ### decrementTimers -/

@[simp] theorem State.decrementTimers_mem : (s.decrementTimers).mem = s.mem := rfl
@[simp] theorem State.decrementTimers_v : (s.decrementTimers).v = s.v := rfl
@[simp] theorem State.decrementTimers_i : (s.decrementTimers).i = s.i := rfl
@[simp] theorem State.decrementTimers_pc : (s.decrementTimers).pc = s.pc := rfl
@[simp] theorem State.decrementTimers_sp : (s.decrementTimers).sp = s.sp := rfl
@[simp] theorem State.decrementTimers_stack : (s.decrementTimers).stack = s.stack := rfl
@[simp] theorem State.decrementTimers_dt : (s.decrementTimers).dt = countDown s.dt := rfl
@[simp] theorem State.decrementTimers_st : (s.decrementTimers).st = countDown s.st := rfl
@[simp] theorem State.decrementTimers_disp : (s.decrementTimers).disp = s.disp := rfl
@[simp] theorem State.decrementTimers_keys : (s.decrementTimers).keys = s.keys := rfl
@[simp] theorem State.decrementTimers_stepCnt : (s.decrementTimers).stepCnt = s.stepCnt := rfl
@[simp] theorem State.decrementTimers_status : (s.decrementTimers).status = s.status := rfl
@[simp] theorem State.decrementTimers_fbOut : (s.decrementTimers).fbOut = s.fbOut := rfl
@[simp] theorem State.decrementTimers_soundOn : (s.decrementTimers).soundOn = s.soundOn := rfl
@[simp] theorem State.decrementTimers_diag : (s.decrementTimers).diag = s.diag := rfl
@[simp] theorem State.decrementTimers_randDraws : (s.decrementTimers).randDraws = s.randDraws := rfl
@[simp] theorem State.decrementTimers_keyDraws : (s.decrementTimers).keyDraws = s.keyDraws := rfl

/-! ### presentDisplay -/

@[simp] theorem State.presentDisplay_mem : (s.presentDisplay).mem = s.mem := rfl
@[simp] theorem State.presentDisplay_v : (s.presentDisplay).v = s.v := rfl
@[simp] theorem State.presentDisplay_i : (s.presentDisplay).i = s.i := rfl
@[simp] theorem State.presentDisplay_pc : (s.presentDisplay).pc = s.pc := rfl
@[simp] theorem State.presentDisplay_sp : (s.presentDisplay).sp = s.sp := rfl
@[simp] theorem State.presentDisplay_stack : (s.presentDisplay).stack = s.stack := rfl
@[simp] theorem State.presentDisplay_dt : (s.presentDisplay).dt = s.dt := rfl
@[simp] theorem State.presentDisplay_st : (s.presentDisplay).st = s.st := rfl
@[simp] theorem State.presentDisplay_disp : (s.presentDisplay).disp = s.disp := rfl
@[simp] theorem State.presentDisplay_keys : (s.presentDisplay).keys = s.keys := rfl
@[simp] theorem State.presentDisplay_stepCnt : (s.presentDisplay).stepCnt = s.stepCnt := rfl
@[simp] theorem State.presentDisplay_status : (s.presentDisplay).status = s.status := rfl
@[simp] theorem State.presentDisplay_fbOut : (s.presentDisplay).fbOut = s.disp := rfl
@[simp] theorem State.presentDisplay_soundOn : (s.presentDisplay).soundOn = s.soundOn := rfl
@[simp] theorem State.presentDisplay_diag : (s.presentDisplay).diag = s.diag := rfl
@[simp] theorem State.presentDisplay_randDraws : (s.presentDisplay).randDraws = s.randDraws := rfl
@[simp] theorem State.presentDisplay_keyDraws : (s.presentDisplay).keyDraws = s.keyDraws := rfl

/-! ### gateAudio -/

@[simp] theorem State.gateAudio_mem : (s.gateAudio).mem = s.mem := rfl
@[simp] theorem State.gateAudio_v : (s.gateAudio).v = s.v := rfl
@[simp] theorem State.gateAudio_i : (s.gateAudio).i = s.i := rfl
@[simp] theorem State.gateAudio_pc : (s.gateAudio).pc = s.pc := rfl
@[simp] theorem State.gateAudio_sp : (s.gateAudio).sp = s.sp := rfl
@[simp] theorem State.gateAudio_stack : (s.gateAudio).stack = s.stack := rfl
@[simp] theorem State.gateAudio_dt : (s.gateAudio).dt = s.dt := rfl
@[simp] theorem State.gateAudio_st : (s.gateAudio).st = s.st := rfl
@[simp] theorem State.gateAudio_disp : (s.gateAudio).disp = s.disp := rfl
@[simp] theorem State.gateAudio_keys : (s.gateAudio).keys = s.keys := rfl
@[simp] theorem State.gateAudio_stepCnt : (s.gateAudio).stepCnt = s.stepCnt := rfl
@[simp] theorem State.gateAudio_status : (s.gateAudio).status = s.status := rfl
@[simp] theorem State.gateAudio_fbOut : (s.gateAudio).fbOut = s.fbOut := rfl
@[simp] theorem State.gateAudio_soundOn : (s.gateAudio).soundOn = (s.st != 0) := rfl
@[simp] theorem State.gateAudio_diag : (s.gateAudio).diag = s.diag := rfl
@[simp] theorem State.gateAudio_randDraws : (s.gateAudio).randDraws = s.randDraws := rfl
@[simp] theorem State.gateAudio_keyDraws : (s.gateAudio).keyDraws = s.keyDraws := rfl

/-! ### latchKeys -/

@[simp] theorem State.latchKeys_mem (k : Keys) : (s.latchKeys k).mem = s.mem := rfl
@[simp] theorem State.latchKeys_v (k : Keys) : (s.latchKeys k).v = s.v := rfl
@[simp] theorem State.latchKeys_i (k : Keys) : (s.latchKeys k).i = s.i := rfl
@[simp] theorem State.latchKeys_pc (k : Keys) : (s.latchKeys k).pc = s.pc := rfl
@[simp] theorem State.latchKeys_sp (k : Keys) : (s.latchKeys k).sp = s.sp := rfl
@[simp] theorem State.latchKeys_stack (k : Keys) : (s.latchKeys k).stack = s.stack := rfl
@[simp] theorem State.latchKeys_dt (k : Keys) : (s.latchKeys k).dt = s.dt := rfl
@[simp] theorem State.latchKeys_st (k : Keys) : (s.latchKeys k).st = s.st := rfl
@[simp] theorem State.latchKeys_disp (k : Keys) : (s.latchKeys k).disp = s.disp := rfl
@[simp] theorem State.latchKeys_keys (k : Keys) : (s.latchKeys k).keys = k := rfl
@[simp] theorem State.latchKeys_stepCnt (k : Keys) : (s.latchKeys k).stepCnt = s.stepCnt := rfl
@[simp] theorem State.latchKeys_status (k : Keys) : (s.latchKeys k).status = s.status := rfl
@[simp] theorem State.latchKeys_fbOut (k : Keys) : (s.latchKeys k).fbOut = s.fbOut := rfl
@[simp] theorem State.latchKeys_soundOn (k : Keys) : (s.latchKeys k).soundOn = s.soundOn := rfl
@[simp] theorem State.latchKeys_diag (k : Keys) : (s.latchKeys k).diag = s.diag := rfl
@[simp] theorem State.latchKeys_randDraws (k : Keys) : (s.latchKeys k).randDraws = s.randDraws := rfl
@[simp] theorem State.latchKeys_keyDraws (k : Keys) : (s.latchKeys k).keyDraws = s.keyDraws + 1 := rfl

/-! ### tick -/

@[simp] theorem State.tick_mem (k : Keys) : (s.tick k).mem = s.mem := rfl
@[simp] theorem State.tick_v (k : Keys) : (s.tick k).v = s.v := rfl
@[simp] theorem State.tick_i (k : Keys) : (s.tick k).i = s.i := rfl
@[simp] theorem State.tick_pc (k : Keys) : (s.tick k).pc = s.pc := rfl
@[simp] theorem State.tick_sp (k : Keys) : (s.tick k).sp = s.sp := rfl
@[simp] theorem State.tick_stack (k : Keys) : (s.tick k).stack = s.stack := rfl
@[simp] theorem State.tick_dt (k : Keys) : (s.tick k).dt = countDown s.dt := rfl
@[simp] theorem State.tick_st (k : Keys) : (s.tick k).st = countDown s.st := rfl
@[simp] theorem State.tick_disp (k : Keys) : (s.tick k).disp = s.disp := rfl
@[simp] theorem State.tick_keys (k : Keys) : (s.tick k).keys = k := rfl
@[simp] theorem State.tick_stepCnt (k : Keys) : (s.tick k).stepCnt = s.stepCnt := rfl
@[simp] theorem State.tick_status (k : Keys) : (s.tick k).status = s.status := rfl
@[simp] theorem State.tick_fbOut (k : Keys) : (s.tick k).fbOut = s.disp := rfl
@[simp] theorem State.tick_soundOn (k : Keys) : (s.tick k).soundOn = (countDown s.st != 0) := rfl
@[simp] theorem State.tick_diag (k : Keys) : (s.tick k).diag = s.diag := rfl
@[simp] theorem State.tick_randDraws (k : Keys) : (s.tick k).randDraws = s.randDraws := rfl
@[simp] theorem State.tick_keyDraws (k : Keys) : (s.tick k).keyDraws = s.keyDraws + 1 := rfl

/-! ### skipIf, by the condition -/

/-- The PC after a conditional skip (R123). -/
@[simp] theorem State.skipIf_pc (c : Bool) : (s.skipIf c).pc = if c then s.pc + 4 else s.pc + 2 := by
  cases c <;> rfl

@[simp] theorem State.skipIf_mem (c : Bool) : (s.skipIf c).mem = s.mem := by cases c <;> rfl
@[simp] theorem State.skipIf_v (c : Bool) : (s.skipIf c).v = s.v := by cases c <;> rfl
@[simp] theorem State.skipIf_i (c : Bool) : (s.skipIf c).i = s.i := by cases c <;> rfl
@[simp] theorem State.skipIf_sp (c : Bool) : (s.skipIf c).sp = s.sp := by cases c <;> rfl
@[simp] theorem State.skipIf_stack (c : Bool) : (s.skipIf c).stack = s.stack := by cases c <;> rfl
@[simp] theorem State.skipIf_dt (c : Bool) : (s.skipIf c).dt = s.dt := by cases c <;> rfl
@[simp] theorem State.skipIf_st (c : Bool) : (s.skipIf c).st = s.st := by cases c <;> rfl
@[simp] theorem State.skipIf_disp (c : Bool) : (s.skipIf c).disp = s.disp := by cases c <;> rfl
@[simp] theorem State.skipIf_keys (c : Bool) : (s.skipIf c).keys = s.keys := by cases c <;> rfl
@[simp] theorem State.skipIf_stepCnt (c : Bool) : (s.skipIf c).stepCnt = s.stepCnt := by cases c <;> rfl
@[simp] theorem State.skipIf_status (c : Bool) : (s.skipIf c).status = s.status := by cases c <;> rfl
@[simp] theorem State.skipIf_fbOut (c : Bool) : (s.skipIf c).fbOut = s.fbOut := by cases c <;> rfl
@[simp] theorem State.skipIf_soundOn (c : Bool) : (s.skipIf c).soundOn = s.soundOn := by cases c <;> rfl
@[simp] theorem State.skipIf_diag (c : Bool) : (s.skipIf c).diag = s.diag := by cases c <;> rfl
@[simp] theorem State.skipIf_randDraws (c : Bool) : (s.skipIf c).randDraws = s.randDraws := by cases c <;> rfl
@[simp] theorem State.skipIf_keyDraws (c : Bool) : (s.skipIf c).keyDraws = s.keyDraws := by cases c <;> rfl

/-! ### countStep and afterInstr: what cadence counting never touches (R276, R278) -/

@[simp] theorem State.countStep_mem (p : Nat) (k : Keys) : (s.countStep p k).mem = s.mem := by
  unfold State.countStep; split <;> rfl
@[simp] theorem State.countStep_v (p : Nat) (k : Keys) : (s.countStep p k).v = s.v := by
  unfold State.countStep; split <;> rfl
@[simp] theorem State.countStep_i (p : Nat) (k : Keys) : (s.countStep p k).i = s.i := by
  unfold State.countStep; split <;> rfl
@[simp] theorem State.countStep_pc (p : Nat) (k : Keys) : (s.countStep p k).pc = s.pc := by
  unfold State.countStep; split <;> rfl
@[simp] theorem State.countStep_sp (p : Nat) (k : Keys) : (s.countStep p k).sp = s.sp := by
  unfold State.countStep; split <;> rfl
@[simp] theorem State.countStep_stack (p : Nat) (k : Keys) : (s.countStep p k).stack = s.stack := by
  unfold State.countStep; split <;> rfl
@[simp] theorem State.countStep_disp (p : Nat) (k : Keys) : (s.countStep p k).disp = s.disp := by
  unfold State.countStep; split <;> rfl
@[simp] theorem State.countStep_status (p : Nat) (k : Keys) : (s.countStep p k).status = s.status := by
  unfold State.countStep; split <;> rfl
@[simp] theorem State.countStep_diag (p : Nat) (k : Keys) : (s.countStep p k).diag = s.diag := by
  unfold State.countStep; split <;> rfl
@[simp] theorem State.countStep_randDraws (p : Nat) (k : Keys) : (s.countStep p k).randDraws = s.randDraws := by
  unfold State.countStep; split <;> rfl
@[simp] theorem State.afterInstr_mem (p : Nat) (k : Keys) : (s.afterInstr p k).mem = s.mem := by
  unfold State.afterInstr; split <;> simp
@[simp] theorem State.afterInstr_v (p : Nat) (k : Keys) : (s.afterInstr p k).v = s.v := by
  unfold State.afterInstr; split <;> simp
@[simp] theorem State.afterInstr_i (p : Nat) (k : Keys) : (s.afterInstr p k).i = s.i := by
  unfold State.afterInstr; split <;> simp
@[simp] theorem State.afterInstr_pc (p : Nat) (k : Keys) : (s.afterInstr p k).pc = s.pc := by
  unfold State.afterInstr; split <;> simp
@[simp] theorem State.afterInstr_sp (p : Nat) (k : Keys) : (s.afterInstr p k).sp = s.sp := by
  unfold State.afterInstr; split <;> simp
@[simp] theorem State.afterInstr_stack (p : Nat) (k : Keys) : (s.afterInstr p k).stack = s.stack := by
  unfold State.afterInstr; split <;> simp
@[simp] theorem State.afterInstr_disp (p : Nat) (k : Keys) : (s.afterInstr p k).disp = s.disp := by
  unfold State.afterInstr; split <;> simp
@[simp] theorem State.afterInstr_status (p : Nat) (k : Keys) : (s.afterInstr p k).status = s.status := by
  unfold State.afterInstr; split <;> simp
@[simp] theorem State.afterInstr_diag (p : Nat) (k : Keys) : (s.afterInstr p k).diag = s.diag := by
  unfold State.afterInstr; split <;> simp
@[simp] theorem State.afterInstr_randDraws (p : Nat) (k : Keys) : (s.afterInstr p k).randDraws = s.randDraws := by
  unfold State.afterInstr; split <;> simp

/-! ### Register reads -/

/-- A register reads what was last written to it (R21). -/
@[simp] theorem State.getV_setV (x r : Reg) (b : Byte) :
    (s.setV x b).getV r = if r = x then b else s.getV r := by
  simp only [State.getV, State.setV, Vector.get_eq_getElem, Vector.getElem_set, Fin.ext_iff, eq_comm]

/-- Two states with the same register file read the same. -/
theorem State.getV_congr {s t : State} (h : t.v = s.v) (r : Reg) : t.getV r = s.getV r := by
  simp only [State.getV, h]

/-- The register reads after a flag and a result are written: the result wins where x = F (R127). -/
@[simp] theorem State.getV_setFlagThen (g b : Byte) (x r : Reg) :
    (s.setFlagThen g x b).getV r = if r = x then b else if r = vf then g else s.getV r := by
  simp [State.setFlagThen]

@[simp] theorem State.getV_setMem (m : Memory) (r : Reg) : (s.setMem m).getV r = s.getV r := rfl
@[simp] theorem State.getV_setStack (k : Vector Word 16) (n : Fin 17) (r : Reg) : (s.setStack k n).getV r = s.getV r := rfl
@[simp] theorem State.getV_setI (a : Word) (r : Reg) : (s.setI a).getV r = s.getV r := rfl
@[simp] theorem State.getV_setDt (b : Byte) (r : Reg) : (s.setDt b).getV r = s.getV r := rfl
@[simp] theorem State.getV_setSt (b : Byte) (r : Reg) : (s.setSt b).getV r = s.getV r := rfl
@[simp] theorem State.getV_setDisp (d : Display) (r : Reg) : (s.setDisp d).getV r = s.getV r := rfl
@[simp] theorem State.getV_jump (a : Word) (r : Reg) : (s.jump a).getV r = s.getV r := rfl
@[simp] theorem State.getV_advance (r : Reg) : (s.advance).getV r = s.getV r := rfl
@[simp] theorem State.getV_skip (r : Reg) : (s.skip).getV r = s.getV r := rfl
@[simp] theorem State.getV_takeFault (f : Fault) (r : Reg) : (s.takeFault f).getV r = s.getV r := rfl
@[simp] theorem State.getV_emitDiag (w : Word) (r : Reg) : (s.emitDiag w).getV r = s.getV r := rfl
@[simp] theorem State.getV_consumeRand (r : Reg) : (s.consumeRand).getV r = s.getV r := rfl
@[simp] theorem State.getV_decrementTimers (r : Reg) : (s.decrementTimers).getV r = s.getV r := rfl
@[simp] theorem State.getV_presentDisplay (r : Reg) : (s.presentDisplay).getV r = s.getV r := rfl
@[simp] theorem State.getV_gateAudio (r : Reg) : (s.gateAudio).getV r = s.getV r := rfl
@[simp] theorem State.getV_latchKeys (k : Keys) (r : Reg) : (s.latchKeys k).getV r = s.getV r := rfl
@[simp] theorem State.getV_tick (k : Keys) (r : Reg) : (s.tick k).getV r = s.getV r := rfl
@[simp] theorem State.getV_skipIf (c : Bool) (r : Reg) : (s.skipIf c).getV r = s.getV r := by cases c <;> rfl

end Sys2Proof.Machine
end

