-- ==== Sys2Proof/Laws/Memory.lean ====
section
/-! SUPPORT. The laws of memory: a write keeps the canonical form, a read after a write, and the multi-byte
accesses in closed form. -/

namespace Sys2Proof.Machine

/-! ### The list of cells -/

theorem Memory.wfFrom_cons (lo a : Nat) (v : Byte) (m : Memory) :
    Memory.wfFrom lo ((a, v) :: m) = true ↔
      lo ≤ a ∧ a < 4096 ∧ v ≠ Memory.unlisted a ∧ Memory.wfFrom (a + 1) m = true := by
  simp only [Memory.wfFrom, Config.memSize, Bool.and_eq_true, decide_eq_true_eq, and_assoc]

theorem Memory.wfFrom_mono {lo lo' : Nat} {m : Memory} (le : lo' ≤ lo) (h : Memory.wfFrom lo m = true) :
    Memory.wfFrom lo' m = true := by
  cases m with
  | nil => rfl
  | cons c m =>
    obtain ⟨a, v⟩ := c
    rw [Memory.wfFrom_cons] at h ⊢
    exact ⟨le.trans h.1, h.2⟩

/-- An address below every cell reads as unlisted. -/
theorem Memory.get_below {lo : Nat} {m : Memory} (h : Memory.wfFrom lo m = true) {a : Nat} (lt : a < lo) :
    m.get a = Memory.unlisted a := by
  induction m generalizing lo with
  | nil => rfl
  | cons c m ih =>
    obtain ⟨b, w⟩ := c
    rw [Memory.wfFrom_cons] at h
    rw [Memory.get, if_neg (by omega), ih h.2.2.2 (by omega)]

theorem Memory.wfFrom_cell {lo a : Nat} {m : Memory} (v : Byte) (le : lo ≤ a) (lt : a < 4096)
    (h : Memory.wfFrom (a + 1) m = true) : Memory.wfFrom lo (Memory.cell a v m) = true := by
  unfold Memory.cell
  split
  · exact Memory.wfFrom_mono (by omega) h
  · next ne => exact (Memory.wfFrom_cons lo a v m).2 ⟨le, lt, ne, h⟩

/-- A write keeps the canonical form. -/
theorem Memory.wfFrom_set {lo a : Nat} {m : Memory} (v : Byte) (h : Memory.wfFrom lo m = true) (le : lo ≤ a)
    (lt : a < 4096) : Memory.wfFrom lo (m.set a v) = true := by
  induction m generalizing lo with
  | nil => exact Memory.wfFrom_cell v le lt rfl
  | cons c m ih =>
    obtain ⟨b, w⟩ := c
    rw [Memory.wfFrom_cons] at h
    unfold Memory.set
    split
    · exact Memory.wfFrom_cell v le lt ((Memory.wfFrom_cons _ _ _ _).2 ⟨by omega, h.2⟩)
    · split
      · next eq => subst eq; exact Memory.wfFrom_cell v le lt h.2.2.2
      · exact (Memory.wfFrom_cons _ _ _ _).2 ⟨h.1, h.2.1, h.2.2.1, ih h.2.2.2 (by omega)⟩

theorem Memory.get_cell {a : Nat} {m : Memory} (v : Byte) (h : Memory.wfFrom (a + 1) m = true) (b : Nat) :
    (Memory.cell a v m).get b = if b = a then v else m.get b := by
  unfold Memory.cell
  split
  · next eq =>
    split
    · next eq' => subst eq'; rw [eq, Memory.get_below h (by omega)]
    · rfl
  · rfl

/-- A read after a write (R61, R62, R74). -/
theorem Memory.get_set {lo a : Nat} {m : Memory} (v : Byte) (h : Memory.wfFrom lo m = true) (b : Nat) :
    (m.set a v).get b = if b = a then v else m.get b := by
  induction m generalizing lo with
  | nil => exact Memory.get_cell v rfl b
  | cons c m ih =>
    obtain ⟨d, w⟩ := c
    rw [Memory.wfFrom_cons] at h
    unfold Memory.set
    split
    · exact Memory.get_cell v ((Memory.wfFrom_cons _ _ _ _).2 ⟨by omega, h.2⟩) b
    · split
      · next eq =>
        subst eq
        rw [Memory.get_cell v h.2.2.2, Memory.get]
        split <;> rfl
      · next ge ne =>
        rw [Memory.get, Memory.get, ih h.2.2.2]
        split
        · next eq => subst eq; rw [if_neg (by omega)]
        · rfl

theorem Memory.wf_set {m : Memory} {a : Nat} (v : Byte) (h : m.wf = true) (lt : a < 4096) :
    (m.set a v).wf = true := Memory.wfFrom_set v h (Nat.zero_le a) lt

/-- Every operation of `load` keeps the canonical form too (R71). -/
theorem Memory.wf_setBytes {m : Memory} {a : Nat} {bs : List Byte} (h : m.wf = true)
    (le : a + bs.length ≤ 4096) : (m.setBytes a bs).wf = true := by
  induction bs generalizing m a with
  | nil => exact h
  | cons b bs ih =>
    simp only [List.length_cons] at le
    exact ih (Memory.wf_set b h (by omega)) (by omega)

/-- The reads after a run of bytes is written, in address order. -/
theorem Memory.get_setBytes {m : Memory} {a : Nat} {bs : List Byte} (h : m.wf = true)
    (le : a + bs.length ≤ 4096) (b : Nat) :
    (m.setBytes a bs).get b = if a ≤ b then bs.getD (b - a) (m.get b) else m.get b := by
  induction bs generalizing m a with
  | nil => simp [Memory.setBytes]
  | cons v bs ih =>
    simp only [List.length_cons] at le
    rw [Memory.setBytes, ih (Memory.wf_set v h (by omega)) (by omega), Memory.get_set v h]
    by_cases eq : b = a
    · subst eq; simp
    · by_cases lt : a < b
      · rw [if_neg eq, if_pos (by omega), if_pos (by omega)]
        obtain ⟨k, rfl⟩ : ∃ k, b = a + 1 + k := ⟨b - (a + 1), by omega⟩
        have e1 : a + 1 + k - (a + 1) = k := by omega
        have e2 : a + 1 + k - a = k + 1 := by omega
        rw [e1, e2, List.getD_cons_succ]
      · rw [if_neg (by omega), if_neg eq, if_neg (by omega)]

/-! ### Access through the state -/

theorem State.memRead_ok {s : State} {a : Nat} (h : a < 4096) : s.memRead a = .ok (s.mem.get a) :=
  if_neg (by simpa using h)

theorem State.memRead_fault {s : State} {a : Nat} (h : 4096 ≤ a) : s.memRead a = .error (.memoryFault a) :=
  if_pos (by simpa using h)

/-- What a read answers, once for all (R61). -/
theorem State.memRead_eq_ok {s : State} {a : Nat} {b : Byte} :
    s.memRead a = .ok b ↔ a < 4096 ∧ s.mem.get a = b := by
  rcases Nat.lt_or_ge a 4096 with h | h
  · simp [State.memRead_ok h, h]
  · simp [State.memRead_fault h]; omega

/-- States with the same memory read the same bytes. -/
theorem State.memRead_congr {s t : State} (h : t.mem = s.mem) (a : Nat) : t.memRead a = s.memRead a := by
  simp only [State.memRead, h]

theorem State.memWrite_ok {s : State} {a : Nat} (b : Byte) (h : a < 4096) :
    s.memWrite a b = .ok (s.setMem (s.mem.set a b)) := if_neg (by simpa using h)

theorem State.memWrite_fault {s : State} {a : Nat} (b : Byte) (h : 4096 ≤ a) :
    s.memWrite a b = .error (.memoryFault a) := if_pos (by simpa using h)

/-- The first address of n from a that is past the end of memory: the one a multi-byte access faults at
(R275). -/
theorem State.readBytes_eq (s : State) (a n : Nat) :
    s.readBytes a n =
      if n = 0 ∨ a + n ≤ 4096 then .ok ((List.range n).map (fun k => s.mem.get (a + k)))
      else .error (.memoryFault (max a 4096)) := by
  induction n generalizing a with
  | zero => simp [State.readBytes]
  | succ n ih =>
    unfold State.readBytes
    rcases Nat.lt_or_ge a 4096 with h | h
    · rw [State.memRead_ok h, ih]
      by_cases le : a + (n + 1) ≤ 4096
      · rw [if_pos (Or.inr (by omega)), if_pos (Or.inr le), List.range_succ_eq_map]
        simp [Nat.add_assoc, Nat.add_comm 1]
      · rw [if_neg (by omega), if_neg (by omega)]
        simp only [Except.error.injEq, Fault.memoryFault.injEq]; omega
    · rw [State.memRead_fault h, if_neg (by omega)]
      simp only [Except.error.injEq, Fault.memoryFault.injEq]; omega

/-- A write of several bytes: all of them where all fit, else the fault of the lowest address that does not
(R272, R275). -/
theorem State.writeBytes_eq (s : State) (a : Nat) (bs : List Byte) :
    s.writeBytes a bs =
      if bs.length = 0 ∨ a + bs.length ≤ 4096 then .ok (s.setMem (s.mem.setBytes a bs))
      else .error (.memoryFault (max a 4096)) := by
  induction bs generalizing s a with
  | nil => simp [State.writeBytes, Memory.setBytes, State.setMem]
  | cons b bs ih =>
    unfold State.writeBytes
    simp only [List.length_cons]
    rcases Nat.lt_or_ge a 4096 with h | h
    · rw [State.memWrite_ok b h]
      dsimp only
      rw [ih]
      by_cases le : a + (bs.length + 1) ≤ 4096
      · rw [if_pos (Or.inr (by omega)), if_pos (Or.inr le)]; rfl
      · rw [if_neg (by omega), if_neg (by omega)]
        simp only [Except.error.injEq, Fault.memoryFault.injEq]; omega
    · rw [State.memWrite_fault b h, if_neg (by omega)]
      simp only [Except.error.injEq, Fault.memoryFault.injEq]; omega

/-- The reset memory is canonical, and reads as the font and then zero (R37, R68). -/
theorem State.reset_mem_wf : State.reset.mem.wf = true := rfl

theorem State.reset_mem_get (a : Nat) : State.reset.mem.get a = if a < 80 then Config.font a else 0 := rfl

/-- `load` keeps the canonical form. -/
theorem State.load_wf {s t : State} {a : Nat} {bs : List Byte} (h : s.mem.wf = true)
    (e : s.load a bs = .ok t) : t.mem.wf = true := by
  unfold State.load at e
  split at e
  · cases e
  · next le => cases e; exact Memory.wf_setBytes h (by simpa using le)

end Sys2Proof.Machine
end

