-- ==== Sys2Proof/Laws/Display.lean ====
section
/-! SUPPORT. The laws of the display: toggling one pixel, and what drawing a sprite's rows does to every pixel
and to the collision flag (`44_display.md` R230, R232). -/

namespace Sys2Proof.Machine

/-- Toggling inverts the one pixel named and no other (R230). -/
theorem pixel_togglePixel (d : Display) (x y px py : Nat) :
    pixel (togglePixel d x y).1 px py = (pixel d px py ^^ decide (px % 64 = x % 64 ∧ py % 32 = y % 32)) := by
  simp only [pixel, togglePixel, Vector.getElem_set]
  by_cases hy : y % 32 = py % 32
  · simp only [hy, if_true, BitVec.getLsbD_xor, BitVec.getLsbD_twoPow]
    congr 1
    simp [Nat.mod_lt, eq_comm]
  · have hy' : py % 32 ≠ y % 32 := fun h => hy h.symm
    simp [hy, hy']

/-- `togglePixel` gives back what the pixel was (R230). -/
theorem togglePixel_wasOn (d : Display) (x y : Nat) : (togglePixel d x y).2 = pixel d x y := rfl

/-- Clearing turns every pixel off (R230, R231). -/
theorem pixel_clearDisplay (x y : Nat) : pixel clearDisplay x y = false := by
  simp [pixel, clearDisplay]

/-- Two displays with the same pixels are equal. -/
theorem Display.ext_pixel {d e : Display} (h : ∀ x y, x < 64 → y < 32 → pixel d x y = pixel e x y) : d = e := by
  apply Vector.ext
  intro y hy
  apply BitVec.eq_of_getLsbD_eq
  intro x hx
  have := h x y hx hy
  simpa only [pixel, Nat.mod_eq_of_lt hx, Nat.mod_eq_of_lt hy] using this

/-- The columns from c0 on of one sprite row cover a pixel column: some set bit falls there. -/
def rowCovers (x0 : Nat) (row : Byte) (cs : List Nat) (px : Nat) : Bool :=
  cs.any fun c => spriteBit row c && decide ((x0 + c) % 64 = px % 64)

/-- A run of sprite columns, no two of which fall on one pixel, toggles exactly the pixels it covers, and notes
whether any of them was on (R232). -/
theorem foldl_drawBit (x0 y : Nat) (row : Byte) (cs : List Nat)
    (distinct : cs.Pairwise fun c e => (x0 + c) % 64 ≠ (x0 + e) % 64) (d : Display) (hit : Bool) :
    (∀ px py, pixel (cs.foldl (drawBit x0 y row) (d, hit)).1 px py =
      (pixel d px py ^^ (decide (py % 32 = y % 32) && rowCovers x0 row cs px))) ∧
    (cs.foldl (drawBit x0 y row) (d, hit)).2 =
      (hit || cs.any fun c => spriteBit row c && pixel d (x0 + c) y) := by
  induction cs generalizing d hit with
  | nil => simp [rowCovers]
  | cons c cs ih =>
    rw [List.pairwise_cons] at distinct
    have apart : ∀ e ∈ cs, (x0 + e) % 64 ≠ (x0 + c) % 64 := fun e he h => distinct.1 e he h.symm
    obtain ⟨ihp, ihh⟩ := ih distinct.2 (drawBit x0 y row (d, hit) c).1 (drawBit x0 y row (d, hit) c).2
    rw [List.foldl_cons]
    by_cases hb : spriteBit row c = true
    · constructor
      · intro px py
        rw [ihp]
        simp only [drawBit, hb, if_true, pixel_togglePixel, rowCovers, List.any_cons, Bool.true_and, Bool.xor_assoc]
        congr 1
        by_cases hy : py % 32 = y % 32
        · by_cases hx : (x0 + c) % 64 = px % 64
          · have none : (cs.any fun e => spriteBit row e && decide ((x0 + e) % 64 = px % 64)) = false := by
              rw [List.any_eq_false]
              intro e he
              rw [← hx]
              simp only [apart e he, decide_false, Bool.and_false, Bool.false_eq_true, not_false_iff]
            rw [none]
            simp [hy, hx]
          · rw [decide_eq_false fun h => hx h.1.symm, decide_eq_false hx, Bool.false_xor, Bool.false_or]
        · simp [hy]
      · rw [ihh]
        simp only [drawBit, hb, if_true, List.any_cons, Bool.true_and, togglePixel_wasOn, Bool.or_assoc]
        congr 2
        apply Bool.eq_iff_iff.2
        simp only [List.any_eq_true, Bool.and_eq_true]
        refine exists_congr fun e => and_congr_right fun he => and_congr_right fun _ => ?_
        rw [pixel_togglePixel, decide_eq_false fun h => apart e he h.1, Bool.xor_false]
    · constructor
      · intro px py
        rw [ihp]
        simp [drawBit, hb, rowCovers]
      · rw [ihh]
        simp [drawBit, hb]

/-- The eight columns of a row fall on eight pixels (R232). -/
theorem columns_distinct (x0 : Nat) :
    (List.range 8).Pairwise fun c e => (x0 + c) % 64 ≠ (x0 + e) % 64 := by
  refine List.Pairwise.imp_of_mem ?_ List.pairwise_lt_range
  intro c e hc he lt
  rw [List.mem_range] at hc he
  omega

/-- What drawing one row does (R232). -/
theorem drawRow_spec (x0 y : Nat) (row : Byte) (d : Display) (hit : Bool) :
    (∀ px py, pixel (drawRow x0 y row (d, hit)).1 px py =
      (pixel d px py ^^ (decide (py % 32 = y % 32) && rowCovers x0 row (List.range 8) px))) ∧
    (drawRow x0 y row (d, hit)).2 =
      (hit || (List.range 8).any fun c => spriteBit row c && pixel d (x0 + c) y) :=
  foldl_drawBit x0 y row (List.range 8) (columns_distinct x0) d hit

/-- The sprite rows from screen row y on cover a pixel: some set bit falls there, the coordinates taken modulo the
screen's width and height. -/
def rowsCover (x0 : Nat) : Nat → List Byte → Nat → Nat → Bool
  | _, [], _, _ => false
  | y, row :: rows, px, py =>
    (decide (py % 32 = y % 32) && rowCovers x0 row (List.range 8) px) || rowsCover x0 (y + 1) rows px py

/-- Some set bit of the sprite rows falls on a pixel that is on. -/
def rowsHit (x0 : Nat) (d : Display) : Nat → List Byte → Bool
  | _, [] => false
  | y, row :: rows =>
    ((List.range 8).any fun c => spriteBit row c && pixel d (x0 + c) y) || rowsHit x0 d (y + 1) rows

/-- Rows that start below a screen row, and do not reach it again by wrapping, do not cover it. -/
theorem rowsCover_outside (x0 y0 k : Nat) (rows : List Byte) (px py : Nat) (hy : py % 32 = y0 % 32)
    (pos : 0 < k) (le : k + rows.length ≤ 32) : rowsCover x0 (y0 + k) rows px py = false := by
  induction rows generalizing k with
  | nil => rfl
  | cons row rows ih =>
    simp only [List.length_cons] at le
    have : py % 32 ≠ (y0 + k) % 32 := by omega
    simp only [rowsCover, this, decide_false, Bool.false_and, Bool.false_or]
    rw [Nat.add_assoc]
    exact ih (k + 1) (by omega) (by omega)

/-- The same for the collision: a change of the display's row y0 alone is not seen. -/
theorem rowsHit_congr (x0 y0 k : Nat) (rows : List Byte) (d e : Display) (pos : 0 < k)
    (le : k + rows.length ≤ 32) (h : ∀ px py, py % 32 ≠ y0 % 32 → pixel d px py = pixel e px py) :
    rowsHit x0 d (y0 + k) rows = rowsHit x0 e (y0 + k) rows := by
  induction rows generalizing k with
  | nil => rfl
  | cons row rows ih =>
    simp only [List.length_cons] at le
    simp only [rowsHit]
    rw [Nat.add_assoc, ih (k + 1) (by omega) (by omega)]
    congr 2
    funext c
    rw [h _ _ (by omega)]

/-- What drawing a sprite does: every pixel is XORed with whether the sprite covers it, and the collision says
whether a covered pixel was on before (R232). At most 32 rows, as every sprite has, so none covers another. -/
theorem drawRows_spec (x0 y0 : Nat) (rows : List Byte) (le : rows.length ≤ 32) (d : Display) (hit : Bool) :
    (∀ px py, pixel (drawRows x0 y0 rows (d, hit)).1 px py = (pixel d px py ^^ rowsCover x0 y0 rows px py)) ∧
    (drawRows x0 y0 rows (d, hit)).2 = (hit || rowsHit x0 d y0 rows) := by
  induction rows generalizing y0 d hit with
  | nil => simp [drawRows, rowsCover, rowsHit]
  | cons row rows ih =>
    simp only [List.length_cons] at le
    obtain ⟨rp, rh⟩ := drawRow_spec x0 y0 row d hit
    obtain ⟨ip, ih'⟩ := ih (y0 + 1) (by omega) (drawRow x0 y0 row (d, hit)).1 (drawRow x0 y0 row (d, hit)).2
    constructor
    · intro px py
      rw [drawRows, ip, rp, Bool.xor_assoc]
      congr 1
      by_cases hy : py % 32 = y0 % 32
      · rw [rowsCover, rowsCover_outside x0 y0 1 rows px py hy (by omega) (by omega)]
        simp
      · simp [rowsCover, hy]
    · rw [drawRows, ih', rh, rowsHit, Bool.or_assoc]
      congr 2
      refine rowsHit_congr x0 y0 1 rows _ _ (by omega) (by omega) fun px py hy => ?_
      rw [rp]
      simp [hy]

end Sys2Proof.Machine
end

