-- ==== Sys2Proof/Laws/Ops.lean ====
section
/-! SUPPORT. One lemma per shared operation that says everything it can do: the stack, the keys, runs of
registers, the digits, the flags, the fetch and the end of an instruction. -/

namespace Sys2Proof.Machine

/-! ### The end of an instruction (R272) -/

@[simp] theorem State.conclude_ok (s t : State) : s.conclude (.ok t) = .next t := rfl

@[simp] theorem State.conclude_error (s : State) (f : Fault) : s.conclude (.error f) = .next (s.takeFault f) := rfl

/-- Whatever an instruction's body answers, the instruction ends in a next state (R272). -/
theorem State.conclude_next (s : State) (r : Except Fault State) : ∃ t, s.conclude r = .next t := by
  cases r <;> exact ⟨_, rfl⟩

/-! ### The call stack (R140, R142) -/

theorem State.push_ok {s : State} (a : Word) (h : s.sp.val < 16) :
    s.push a = .ok (s.setStack (s.stack.set s.sp.val a h) ⟨s.sp.val + 1, Nat.succ_lt_succ h⟩) := dif_pos h

theorem State.push_full {s : State} (a : Word) (h : s.sp.val = 16) : s.push a = .error (.stackOverflow 16) := by
  rw [State.push, dif_neg (by omega), h]

theorem State.pop_ok {s : State} (h : s.sp.val ≠ 0) (lt : s.sp.val - 1 < 16) :
    s.pop = .ok (s.stack[s.sp.val - 1], s.setStack s.stack ⟨s.sp.val - 1, Nat.lt_succ_of_lt lt⟩) := dif_neg h

theorem State.pop_empty {s : State} (h : s.sp.val = 0) : s.pop = .error (.stackUnderflow 0) := by
  rw [State.pop, dif_pos h, h]

/-- SP less one names an entry (R29). -/
theorem State.sp_pred_lt (s : State) : s.sp.val - 1 < 16 := by have := s.sp.isLt; omega

/-! ### Keys (R250, R253) -/

theorem State.keyAt_ok {s : State} {a : Byte} (h : a.toNat < 16) : s.keyAt a = .ok (s.key a.toNat) :=
  if_neg (by simpa using h)

theorem State.keyAt_fault {s : State} {a : Byte} (h : 16 ≤ a.toNat) : s.keyAt a = .error (.keyIndexFault a) :=
  if_pos (by simpa using h)

/-- The smallest pressed key (R253, D16). -/
theorem State.firstKey_eq_some {s : State} {k : Nat} :
    s.firstKey = some k ↔ k < 16 ∧ s.key k = true ∧ ∀ j < k, s.key j = false := by
  unfold State.firstKey
  rw [List.find?_range_eq_some]
  simp [and_left_comm]

/-- No key is pressed exactly when the latch is all zero (R35, R253). -/
theorem State.firstKey_eq_none {s : State} : s.firstKey = none ↔ s.keys = 0 := by
  simp only [State.firstKey, List.find?_eq_none, List.mem_range, State.key, Bool.not_eq_true]
  constructor
  · intro h
    apply BitVec.eq_of_getLsbD_eq
    intro k hk
    rw [h k hk, BitVec.ofNat_eq_ofNat, BitVec.getLsbD_zero]
  · intro h k _
    rw [h, BitVec.ofNat_eq_ofNat, BitVec.getLsbD_zero]

/-! ### Runs of registers (R204, R205) -/

@[simp] theorem State.getVs_length (s : State) (x : Reg) : (s.getVs x).length = x.val + 1 := by
  have := x.isLt
  simp [State.getVs]

theorem State.getVs_getD (s : State) (x : Reg) (k : Nat) (h : k ≤ x.val) (d : Byte) :
    (s.getVs x).getD k d = s.getV ⟨k, by have := x.isLt; omega⟩ := by
  have := x.isLt
  simp [State.getVs, State.getV, List.getD, show k < x.val + 1 by omega, Vector.get_eq_getElem]

/-- Writing a run of registers writes those from its start on, and nothing but registers (R205). -/
theorem State.setVs_spec (s : State) (k : Nat) (bs : List Byte) :
    s.setVs k bs = { s with v := (s.setVs k bs).v } ∧
    ∀ r : Reg, (s.setVs k bs).getV r = if k ≤ r.val then bs.getD (r.val - k) (s.getV r) else s.getV r := by
  induction bs generalizing s k with
  | nil => exact ⟨rfl, fun r => by simp [State.setVs]⟩
  | cons b bs ih =>
    obtain ⟨e, h⟩ := ih (if h : k < 16 then s.setV ⟨k, h⟩ b else s) (k + 1)
    constructor
    · rw [State.setVs]
      conv_lhs => rw [e]
      split <;> rfl
    · intro r
      rw [State.setVs, h]
      have := r.isLt
      by_cases le : k + 1 ≤ r.val
      · obtain ⟨j, hj⟩ : ∃ j, r.val = k + 1 + j := ⟨r.val - (k + 1), by omega⟩
        rw [if_pos le, if_pos (by omega), hj, show k + 1 + j - (k + 1) = j by omega,
          show k + 1 + j - k = j + 1 by omega, List.getD_cons_succ, dif_pos (by omega), State.getV_setV,
          if_neg (by intro h; rw [h] at hj; simp at hj; omega)]
      · rw [if_neg le]
        by_cases eq : k ≤ r.val
        · have hk : r.val = k := by omega
          rw [if_pos eq, dif_pos (by omega), State.getV_setV, if_pos (Fin.ext hk), hk, Nat.sub_self,
            List.getD_cons_zero]
        · rw [if_neg eq]
          split
          · rw [State.getV_setV, if_neg (by intro h; rw [h] at eq; simp at eq)]
          · rfl

section
variable (s : State) (k : Nat) (bs : List Byte)

@[simp] theorem State.setVs_mem : (s.setVs k bs).mem = s.mem := by rw [(s.setVs_spec k bs).1]
@[simp] theorem State.setVs_i : (s.setVs k bs).i = s.i := by rw [(s.setVs_spec k bs).1]
@[simp] theorem State.setVs_pc : (s.setVs k bs).pc = s.pc := by rw [(s.setVs_spec k bs).1]
@[simp] theorem State.setVs_sp : (s.setVs k bs).sp = s.sp := by rw [(s.setVs_spec k bs).1]
@[simp] theorem State.setVs_stack : (s.setVs k bs).stack = s.stack := by rw [(s.setVs_spec k bs).1]
@[simp] theorem State.setVs_dt : (s.setVs k bs).dt = s.dt := by rw [(s.setVs_spec k bs).1]
@[simp] theorem State.setVs_st : (s.setVs k bs).st = s.st := by rw [(s.setVs_spec k bs).1]
@[simp] theorem State.setVs_disp : (s.setVs k bs).disp = s.disp := by rw [(s.setVs_spec k bs).1]
@[simp] theorem State.setVs_keys : (s.setVs k bs).keys = s.keys := by rw [(s.setVs_spec k bs).1]
@[simp] theorem State.setVs_stepCnt : (s.setVs k bs).stepCnt = s.stepCnt := by rw [(s.setVs_spec k bs).1]
@[simp] theorem State.setVs_status : (s.setVs k bs).status = s.status := by rw [(s.setVs_spec k bs).1]
@[simp] theorem State.setVs_fbOut : (s.setVs k bs).fbOut = s.fbOut := by rw [(s.setVs_spec k bs).1]
@[simp] theorem State.setVs_soundOn : (s.setVs k bs).soundOn = s.soundOn := by rw [(s.setVs_spec k bs).1]
@[simp] theorem State.setVs_diag : (s.setVs k bs).diag = s.diag := by rw [(s.setVs_spec k bs).1]
@[simp] theorem State.setVs_randDraws : (s.setVs k bs).randDraws = s.randDraws := by rw [(s.setVs_spec k bs).1]
@[simp] theorem State.setVs_keyDraws : (s.setVs k bs).keyDraws = s.keyDraws := by rw [(s.setVs_spec k bs).1]

end

/-! ### The fetch (R121) -/

/-- The fetch in closed form: the word at PC where both its bytes are in memory, else the fault of the first
address that is not (R121, R275). -/
theorem State.fetch_eq (s : State) :
    s.fetch =
      if s.pc.toNat + 1 < 4096 then .ok (wordOfBytes (s.mem.get s.pc.toNat) (s.mem.get (s.pc.toNat + 1)))
      else .error (.memoryFault (max s.pc.toNat 4096)) := by
  unfold State.fetch
  rcases Nat.lt_or_ge s.pc.toNat 4096 with h | h
  · rw [State.memRead_ok h]
    rcases Nat.lt_or_ge (s.pc.toNat + 1) 4096 with h' | h'
    · rw [State.memRead_ok h', if_pos h']
    · rw [State.memRead_fault h', if_neg (by omega), show max s.pc.toNat 4096 = s.pc.toNat + 1 by omega]
  · rw [State.memRead_fault h, if_neg (by omega), Nat.max_eq_left h]

/-! ### Decimal digits (R203) -/

@[simp] theorem bcdDigits_length (a : Byte) : (bcdDigits a).length = 3 := rfl

/-- The digits make up the byte (R203). -/
theorem bcdDigits_value (a : Byte) : a.toNat / 100 * 100 + a.toNat / 10 % 10 * 10 + a.toNat % 10 = a.toNat := by
  omega

/-! ### The flags (R24, R182) -/

theorem flagOf_le (c : Bool) : (flagOf c).toNat ≤ 1 := by cases c <;> decide

theorem lowBitFlag_toNat (a : Byte) : (lowBitFlag a).toNat = a.toNat % 2 := by
  simp [lowBitFlag, Nat.and_one_is_mod]

theorem highBitFlag_toNat (a : Byte) : (highBitFlag a).toNat = a.toNat / 128 := by
  have := a.isLt
  simp [highBitFlag, Nat.shiftRight_eq_div_pow]
  omega

theorem lowBitFlag_le (a : Byte) : (lowBitFlag a).toNat ≤ 1 := by rw [lowBitFlag_toNat]; omega

theorem highBitFlag_le (a : Byte) : (highBitFlag a).toNat ≤ 1 := by
  rw [highBitFlag_toNat]; have := a.isLt; omega

/-! ### The tick (R279 to R283) -/

/-- A countdown never goes below 0 and never wraps (R280). -/
theorem countDown_toNat (b : Byte) : (countDown b).toNat = b.toNat - 1 := by
  unfold countDown
  split
  · next h =>
    have := b.isLt
    rw [BitVec.toNat_sub]; simp; omega
  · next h => omega

/-- Cadence counting, by whether a tick is due (R278). -/
theorem State.countStep_due {s : State} {p : Nat} (k : Keys) (h : s.stepCnt + 1 = p) :
    s.countStep p k = State.tick { s with stepCnt := 0 } k := if_pos h

theorem State.countStep_notDue {s : State} {p : Nat} (k : Keys) (h : s.stepCnt + 1 ≠ p) :
    s.countStep p k = { s with stepCnt := s.stepCnt + 1 } := if_neg h

theorem State.afterInstr_running {s : State} (p : Nat) (k : Keys) (h : s.status = .running) :
    s.afterInstr p k = s.countStep p k := by rw [State.afterInstr, h]

theorem State.afterInstr_faulted {s : State} (p : Nat) (k : Keys) {f : Fault} {a : Word}
    (h : s.status = .faulted f a) : s.afterInstr p k = s := by rw [State.afterInstr, h]

end Sys2Proof.Machine
end

