-- ==== Sys2Proof/Laws/PerInstr.lean ====
section
/-! SUPPORT. Statements made of each instruction as syntax, one lemma per constructor. -/

namespace Sys2Proof.Laws

/-! ### EncodeRow: the word of an instruction lies in its own row of the opcode map (R96) -/

/-- `encode i & mask = match`, for the mask and match of i's row. -/
def EncodeRow.Statement (i : Instr) : Prop := encode i &&& (opcodeRow i).1 = (opcodeRow i).2

namespace EncodeRow

theorem mask_packNNN (op : BitVec 4) (nnn : Word) : packNNN op nnn &&& 0xF000#16 = packNNN op 0 := by
  rw [mask_op, fieldOp_packNNN]

theorem mask_packXNN (op : BitVec 4) (x : Reg) (nn : Byte) : packXNN op x nn &&& 0xF000#16 = packNNN op 0 := by
  rw [mask_op, fieldOp_packXNN]

theorem mask_packXNN_nn (op : BitVec 4) (x : Reg) (nn : Byte) :
    packXNN op x nn &&& 0xF0FF#16 = packXNN op 0 nn := by
  rw [mask_op_nn, fieldOp_packXNN, fieldNN_packXNN]

theorem mask_packXYN (op : BitVec 4) (x y n : Fin 16) : packXYN op x y n &&& 0xF000#16 = packNNN op 0 := by
  rw [mask_op, fieldOp_packXYN]

theorem mask_packXYN_n (op : BitVec 4) (x y n : Fin 16) :
    packXYN op x y n &&& 0xF00F#16 = packXYN op 0 0 n := by
  rw [mask_op_n, fieldOp_packXYN, fieldN_packXYN]

theorem cls : Statement .cls := rfl
theorem ret : Statement .ret := rfl
theorem jp (nnn : Word) : Statement (.jp nnn) := mask_packNNN _ nnn
theorem call (nnn : Word) : Statement (.call nnn) := mask_packNNN _ nnn
theorem seImm (x : Reg) (nn : Byte) : Statement (.seImm x nn) := mask_packXNN _ x nn
theorem sneImm (x : Reg) (nn : Byte) : Statement (.sneImm x nn) := mask_packXNN _ x nn
theorem seReg (x y : Reg) : Statement (.seReg x y) := mask_packXYN _ x y 0
theorem ldImm (x : Reg) (nn : Byte) : Statement (.ldImm x nn) := mask_packXNN _ x nn
theorem addImm (x : Reg) (nn : Byte) : Statement (.addImm x nn) := mask_packXNN _ x nn
theorem ldReg (x y : Reg) : Statement (.ldReg x y) := mask_packXYN_n _ x y 0x0
theorem orReg (x y : Reg) : Statement (.orReg x y) := mask_packXYN_n _ x y 0x1
theorem andReg (x y : Reg) : Statement (.andReg x y) := mask_packXYN_n _ x y 0x2
theorem xorReg (x y : Reg) : Statement (.xorReg x y) := mask_packXYN_n _ x y 0x3
theorem addReg (x y : Reg) : Statement (.addReg x y) := mask_packXYN_n _ x y 0x4
theorem sub (x y : Reg) : Statement (.sub x y) := mask_packXYN_n _ x y 0x5
theorem shr (x : Reg) : Statement (.shr x) := mask_packXYN_n _ x 0 0x6
theorem subn (x y : Reg) : Statement (.subn x y) := mask_packXYN_n _ x y 0x7
theorem shl (x : Reg) : Statement (.shl x) := mask_packXYN_n _ x 0 0xE
theorem sneReg (x y : Reg) : Statement (.sneReg x y) := mask_packXYN _ x y 0
theorem ldI (nnn : Word) : Statement (.ldI nnn) := mask_packNNN _ nnn
theorem jpV0 (nnn : Word) : Statement (.jpV0 nnn) := mask_packNNN _ nnn
theorem rnd (x : Reg) (nn : Byte) : Statement (.rnd x nn) := mask_packXNN _ x nn
theorem drw (x y : Reg) (n : Fin 16) : Statement (.drw x y n) := mask_packXYN _ x y n
theorem skp (x : Reg) : Statement (.skp x) := mask_packXNN_nn _ x _
theorem sknp (x : Reg) : Statement (.sknp x) := mask_packXNN_nn _ x _
theorem ldVxDt (x : Reg) : Statement (.ldVxDt x) := mask_packXNN_nn _ x _
theorem ldVxK (x : Reg) : Statement (.ldVxK x) := mask_packXNN_nn _ x _
theorem ldDt (x : Reg) : Statement (.ldDt x) := mask_packXNN_nn _ x _
theorem ldSt (x : Reg) : Statement (.ldSt x) := mask_packXNN_nn _ x _
theorem addI (x : Reg) : Statement (.addI x) := mask_packXNN_nn _ x _
theorem ldF (x : Reg) : Statement (.ldF x) := mask_packXNN_nn _ x _
theorem ldB (x : Reg) : Statement (.ldB x) := mask_packXNN_nn _ x _
theorem ldMemStore (x : Reg) : Statement (.ldMemStore x) := mask_packXNN_nn _ x _
theorem ldMemLoad (x : Reg) : Statement (.ldMemLoad x) := mask_packXNN_nn _ x _

end EncodeRow

end Sys2Proof.Laws
end

