-- ==== Sys2Proof/Laws/Step.lean ====
section
/-! SUPPORT. What a step can do, said once: it has no effect, it faults at the fetch, or it runs what the fetched
word decodes to and counts. And what placing an instruction does. -/

namespace Sys2Proof.Machine

/-- A step of a faulted machine has no effect (R126). -/
theorem stepWith_faulted {s : State} (p : Nat) (k : Keys) {f : Fault} {a : Word} (h : s.status = .faulted f a) :
    stepWith p k s = .next s := by rw [stepWith, h]

/-- A step whose fetch faults enters that fault (R120, R121). -/
theorem stepWith_fetchFault {s : State} (p : Nat) (k : Keys) {f : Fault} (h : s.status = .running)
    (e : s.fetch = .error f) : stepWith p k s = .next (s.takeFault f) := by rw [stepWith, h, e]

/-- A step whose fetch succeeds runs what the word decodes to, and counts (R120). -/
theorem stepWith_fetched {s : State} (p : Nat) (k : Keys) {w : Word} (h : s.status = .running)
    (e : s.fetch = .ok w) : stepWith p k s = countOutcome p k (execDecoded (decode w) s) := by
  rw [stepWith, h, e]

/-- Everything a step can do. -/
theorem stepWith_cases (p : Nat) (k : Keys) (s : State) :
    (∃ f a, s.status = .faulted f a ∧ stepWith p k s = .next s) ∨
    (∃ f, s.status = .running ∧ s.fetch = .error f ∧ stepWith p k s = .next (s.takeFault f)) ∨
    (∃ w, s.status = .running ∧ s.fetch = .ok w ∧
      stepWith p k s = countOutcome p k (execDecoded (decode w) s)) := by
  cases h : s.status with
  | faulted f a => exact .inl ⟨f, a, rfl, stepWith_faulted p k h⟩
  | running =>
    cases e : s.fetch with
    | error f => exact .inr (.inl ⟨f, rfl, rfl, stepWith_fetchFault p k h e⟩)
    | ok w => exact .inr (.inr ⟨w, rfl, rfl, stepWith_fetched p k h e⟩)

/-- A fetch succeeds exactly with the word of its two bytes. -/
theorem State.fetch_of_bytes {s : State} {hi lo : Byte} (h : s.memRead s.pc.toNat = .ok hi)
    (l : s.memRead (s.pc.toNat + 1) = .ok lo) : s.fetch = .ok (wordOfBytes hi lo) := by
  rw [State.fetch, h]; simp only [l]

/-- After an instruction is placed, the fetch reads it (R64, R121). -/
theorem State.fetch_withFetchWord {s : State} (h : s.mem.wf = true) (le : s.pc.toNat + 1 < 4096) (nbits w : Nat) :
    (s.withFetchWord nbits w).fetch = .ok (tableWord nbits w) := by
  have e : s.withFetchWord nbits w =
      s.setMem (s.mem.setBytes s.pc.toNat [highByte (tableWord nbits w), lowByte (tableWord nbits w)]) := by
    rw [State.withFetchWord, State.writeBytes_eq, if_pos (.inr le)]
  have g := fun b => Memory.get_setBytes (bs := [highByte (tableWord nbits w), lowByte (tableWord nbits w)]) h le b
  rw [e, State.fetch_eq, State.setMem_pc, if_pos le, State.setMem_mem, g, g, if_pos (Nat.le_refl _),
    if_pos (Nat.le_succ _)]
  simp

/-- Placing an instruction changes memory alone. -/
theorem State.withFetchWord_frame (s : State) (nbits w : Nat) :
    s.withFetchWord nbits w = { s with mem := (s.withFetchWord nbits w).mem } := by
  rw [State.withFetchWord, State.writeBytes_eq]
  split
  · next e => split at e <;> cases e; rfl
  · rfl

end Sys2Proof.Machine
end

