-- ==== Sys2Proof/Laws/Run.lean ====
section
/-! SUPPORT. Laws of runs and of their ends (R311). -/

namespace Sys2Proof.Machine

variable {p : Nat} {keysIn : Nat → Keys}

@[simp] theorem runWith_zero (s : State) : runWith p keysIn 0 s = .next s := rfl

/-- One more step of a run is a step from the state it has reached. -/
theorem runWith_succ {n : Nat} {s t : State} (h : runWith p keysIn n s = .next t) :
    runWith p keysIn (n + 1) s = stepWith p (keysIn t.keyDraws) t := by rw [runWith, h]

/-- What `atHaltPc` says. -/
theorem State.atHaltPc_eq_true {s : State} {a : Word} : s.atHaltPc a = true ↔ s.status = .running ∧ s.pc = a := by
  simp [State.atHaltPc]

/-- What `selfJump` says. -/
theorem State.selfJump_eq_true {s : State} :
    s.selfJump = true ↔ ∃ w, s.fetch = .ok w ∧ decode w = .instr (.jp s.pc) := by
  unfold State.selfJump
  split <;> simp_all

/-- A jump to where PC is changes nothing (R141). -/
theorem State.jump_pc_self (s : State) : s.jump s.pc = s := rfl

/-- A run has one end at a given `halt_pc`. -/
theorem EndsAt.unique {a : Word} {n m : Nat} {s t u : State} (h : EndsAt p keysIn a n s t)
    (h' : EndsAt p keysIn a m s u) : n = m ∧ t = u := by
  obtain ⟨r, e, -, f⟩ := h
  obtain ⟨r', e', -, f'⟩ := h'
  rcases Nat.lt_trichotomy n m with lt | rfl | lt
  · rw [f' n t lt r] at e; cases e
  · rw [r] at r'; cases r'; exact ⟨rfl, rfl⟩
  · rw [f m u lt r'] at e'; cases e'

/-- A faulted state is never a normal end (R311). -/
theorem EndsAt.running {a : Word} {n : Nat} {s t : State} (h : EndsAt p keysIn a n s t) : t.status = .running :=
  (State.atHaltPc_eq_true.1 h.2.1).1

end Sys2Proof.Machine
end

