-- ==== Sys2Proof/Tests/Slice0.lean ====
section
/-! SUPPORT. Tests of the model against the spec's own words and vectors (`95_test_vectors.md`, named by their ids),
and for each statement with hypotheses a witness that meets them. Every expected value is the spec's. -/

namespace Sys2Proof.Tests

open Sys2Proof.Machine

/-! ## Helpers -/

/-- What f reads off the state after one step that runs the word w from s. The period is 1000, so no tick runs. -/
def seen {α : Type} (s : State) (w : Nat) (f : State → α) : Option α :=
  match stepWith 1000 0 (s.withFetchWord 16 w) with
  | .next t => some (f t)
  | .fault _ => none
  | .refused _ => none

/-- The reset state with register x holding a. -/
def oneReg (x : Reg) (a : Byte) : State := State.reset.setV x a

/-- The reset state with registers x and y holding a and b. -/
def twoRegs (x : Reg) (a : Byte) (y : Reg) (b : Byte) : State := (State.reset.setV x a).setV y b

/-- The reset state with I at an address and one byte stored there. -/
def spriteAt (a : Word) (b : Byte) : State := { State.reset with i := a, mem := [(a.toNat, b)] }

/-- The reset state with a stack pointer and every stack entry at an address. -/
def stacked (n : Fin 17) (a : Word) : State := { State.reset with sp := n, stack := Vector.replicate 16 a }

/-- What one step from s, running the word w, leaves is s with that word placed and the fault entered (R272). -/
def faults (s : State) (w : Nat) (f : Fault) (pc : Word) : Bool :=
  match stepWith 1000 0 (s.withFetchWord 16 w) with
  | .next t => decide (t = { s.withFetchWord 16 w with status := .faulted f pc })
  | .fault _ => false
  | .refused _ => false

/-! ## Well-formedness (R92): the largest 12-bit address is accepted, the next number refused -/

theorem test_wellFormed_jp : (Instr.jp 0xFFF).wellFormed = true ∧ (Instr.jp 0x1000).wellFormed = false := by decide
theorem test_wellFormed_call : (Instr.call 0xFFF).wellFormed = true ∧ (Instr.call 0x1000).wellFormed = false := by decide
theorem test_wellFormed_ldI : (Instr.ldI 0xFFF).wellFormed = true ∧ (Instr.ldI 0xFFFF).wellFormed = false := by decide
theorem test_wellFormed_jpV0 : (Instr.jpV0 0xFFF).wellFormed = true ∧ (Instr.jpV0 0x8000).wellFormed = false := by decide

/-! ## Decoding: one word of each constructor, written bit by bit as op, x, y, n (R91, R96) -/

theorem test_decode_display :
    decode 0b0000_0000_1110_0000#16 = .instr .cls ∧
    decode 0b1101_0001_0010_0101#16 = .instr (.drw 1 2 5) := by decide

theorem test_decode_flow :
    decode 0b0000_0000_1110_1110#16 = .instr .ret ∧
    decode 0b0001_0010_0011_0100#16 = .instr (.jp 0x234) ∧
    decode 0b0010_0010_0000_1010#16 = .instr (.call 0x20A) ∧
    decode 0b1011_1111_1111_0000#16 = .instr (.jpV0 0xFF0) := by decide

theorem test_decode_skips :
    decode 0b0011_0010_0000_0101#16 = .instr (.seImm 2 0x05) ∧
    decode 0b0100_1111_1010_0001#16 = .instr (.sneImm 0xF 0xA1) ∧
    decode 0b0101_0001_0010_0000#16 = .instr (.seReg 1 2) ∧
    decode 0b0101_0001_0010_1111#16 = .instr (.seReg 1 2) ∧
    decode 0b1001_0001_0011_0111#16 = .instr (.sneReg 1 3) := by decide

theorem test_decode_loads :
    decode 0b0110_1010_0001_0010#16 = .instr (.ldImm 0xA 0x12) ∧
    decode 0b0111_0000_1111_1111#16 = .instr (.addImm 0 0xFF) ∧
    decode 0b1100_0011_0000_1111#16 = .instr (.rnd 3 0x0F) := by decide

theorem test_decode_group8 :
    decode 0b1000_0001_0101_0000#16 = .instr (.ldReg 1 5) ∧
    decode 0b1000_0001_0010_0001#16 = .instr (.orReg 1 2) ∧
    decode 0b1000_0001_0010_0010#16 = .instr (.andReg 1 2) ∧
    decode 0b1000_0100_0010_0011#16 = .instr (.xorReg 4 2) ∧
    decode 0b1000_0011_0100_0100#16 = .instr (.addReg 3 4) ∧
    decode 0b1000_0001_1111_0101#16 = .instr (.sub 1 0xF) ∧
    decode 0b1000_0011_0111_0110#16 = .instr (.shr 3) ∧
    decode 0b1000_1111_0010_0111#16 = .instr (.subn 0xF 2) ∧
    decode 0b1000_0011_1001_1110#16 = .instr (.shl 3) := by decide

theorem test_decode_groupE :
    decode 0b1110_0101_1001_1110#16 = .instr (.skp 5) ∧
    decode 0b1110_1111_1010_0001#16 = .instr (.sknp 0xF) := by decide

theorem test_decode_groupF :
    decode 0b1111_0011_0000_0111#16 = .instr (.ldVxDt 3) ∧
    decode 0b1111_1111_0000_1010#16 = .instr (.ldVxK 0xF) ∧
    decode 0b1111_0010_0001_0101#16 = .instr (.ldDt 2) ∧
    decode 0b1111_0010_0001_1000#16 = .instr (.ldSt 2) ∧
    decode 0b1111_0001_0001_1110#16 = .instr (.addI 1) ∧
    decode 0b1111_1010_0010_1001#16 = .instr (.ldF 0xA) ∧
    decode 0b1111_0011_0011_0011#16 = .instr (.ldB 3) ∧
    decode 0b1111_0001_0101_0101#16 = .instr (.ldMemStore 1) ∧
    decode 0b1111_0010_0110_0101#16 = .instr (.ldMemLoad 2) := by decide

theorem test_decode_index : decode 0b1010_0010_1111_0000#16 = .instr (.ldI 0x2F0) := by decide

/-- Vectors E6 to E12. -/
theorem test_decode_unrecognized :
    decode 0x0000#16 = .unrecognized 0x0000 ∧ decode 0x01E0#16 = .unrecognized 0x01E0 ∧
    decode 0x00EF#16 = .unrecognized 0x00EF ∧ decode 0x8008#16 = .unrecognized 0x8008 ∧
    decode 0x800F#16 = .unrecognized 0x800F ∧ decode 0xE19F#16 = .unrecognized 0xE19F ∧
    decode 0xF20B#16 = .unrecognized 0xF20B ∧ decode 0xF2FF#16 = .unrecognized 0xF2FF := by decide

/-- Vector E1: high byte first, and the rest is given back (R90). -/
theorem test_decodeBytes_bigEndian : decodeBytes [0x12, 0x34, 0x56] = .ok (.instr (.jp 0x234), [0x56]) := by decide

/-- One byte is no instruction (R90). -/
theorem test_decodeBytes_truncated : decodeBytes [0x12] = .error .truncated := by decide

theorem test_decodeTableWord :
    decodeTableWord 16 0x8344 = some (.addReg 3 4) ∧ decodeTableWord 16 0x0000 = none := by decide

/-! ## The step -/

/-- Vector E2: an odd PC is fetched from. -/
theorem test_fetch_odd :
    seen { State.reset with pc := 0x201 } 0x6007 (fun t => (t.getV 0, t.pc)) = some (0x07, 0x203) := by decide

/-- Vector E3: the last word of memory. -/
theorem test_fetch_last :
    seen { State.reset with pc := 0xFFE } 0x6001 (fun t => (t.getV 0, t.pc)) = some (0x01, 0x1000) := by decide

/-- Vector E4: the fetch faults on the address after the last. -/
theorem test_fetch_fault :
    stepWith 1000 0 { State.reset with pc := 0xFFF } =
      .next { State.reset with pc := 0xFFF, status := .faulted (.memoryFault 0x1000) 0xFFF } := rfl

/-- Vector E7: a diagnostic and the next PC. -/
theorem test_unrecognized :
    seen State.reset 0x0123 (fun t => (t.diag, t.pc, t.stepCnt)) = some ([⟨0x0123, 0x200⟩], 0x202, 1) := by decide

/-- Vector E13. -/
theorem test_faulted_is_terminal :
    stepWith 1 0 { State.reset with status := .faulted (.stackUnderflow 0) 0x200 } =
      .next { State.reset with status := .faulted (.stackUnderflow 0) 0x200 } := rfl

/-- The codes and the info of R270. -/
theorem test_fault_codes :
    (Fault.memoryFault 0x1001).code = 1 ∧ (Fault.stackOverflow 16).code = 2 ∧ (Fault.stackUnderflow 0).code = 3 ∧
    (Fault.keyIndexFault 0x10).code = 4 ∧ (Fault.memoryFault 0x1001).info = 0x1001 ∧
    (Fault.keyIndexFault 0xFF).info = 255 := by decide

/-- The host's question: the placed instruction is the one `step` runs, whatever the period. -/
theorem test_step_runs_placed : ∃ t, step (State.reset.withFetchWord 16 0x6A12) = .next t ∧ t.getV 0xA = 0x12 :=
  ⟨_, rfl, by unfold State.afterInstr State.countStep; split <;> first | (split <;> decide) | decide⟩

/-! ## Control transfer -/

/-- Vector F2. -/
theorem test_ret :
    seen { State.reset with sp := 2, stack := (Vector.replicate 16 0x206).set 1 0x310 } 0x00EE
      (fun t => (t.sp, t.pc, t.stack[1])) = some (1, 0x310, 0x310) := by decide

/-- Vector F1. -/
theorem test_ret_underflow : faults State.reset 0x00EE (.stackUnderflow 0) 0x200 = true := by decide

/-- Vector F4. -/
theorem test_jp_odd : seen State.reset 0x1201 (fun t => t.pc) = some 0x201 := by decide

/-- Vector F8: a 16-bit return address. -/
theorem test_call :
    seen { State.reset with pc := 0xFFE } 0x2300 (fun t => (t.stack[0], t.sp, t.pc)) = some (0x1000, 1, 0x300) := by
  decide

/-- Vector F6. -/
theorem test_call_overflow : faults (stacked 16 0x202) 0x2300 (.stackOverflow 16) 0x200 = true := by decide

/-- Vectors F9, F10. -/
theorem test_seImm_taken : seen (oneReg 2 5) 0x3205 (fun t => t.pc) = some 0x204 := by decide
theorem test_seImm_not_taken : seen (oneReg 2 6) 0x3205 (fun t => t.pc) = some 0x202 := by decide

/-- Vector F12. -/
theorem test_sneImm : seen (oneReg 2 6) 0x4205 (fun t => t.pc) = some 0x204 := by decide

/-- Vectors F14, F15. -/
theorem test_seReg_low_nibble : seen (twoRegs 1 3 2 3) 0x512F (fun t => t.pc) = some 0x204 := by decide
theorem test_seReg_differ : seen (twoRegs 1 3 2 4) 0x5120 (fun t => t.pc) = some 0x202 := by decide

/-- Vectors F16, F17. -/
theorem test_sneReg_same : seen (oneReg 1 0x7F) 0x9110 (fun t => t.pc) = some 0x202 := by decide
theorem test_sneReg_low_nibble : seen (twoRegs 1 1 3 2) 0x9137 (fun t => t.pc) = some 0x204 := by decide

/-- Vector F18: a skip past memory does not fault itself. -/
theorem test_skip_past_memory :
    seen { State.reset with pc := 0xFFC } 0x3000 (fun t => (t.pc, t.status)) = some (0x1000, .running) := by decide

/-- Vectors F21, F22: not masked to 12 bits, and V0 whatever the x nibble. -/
theorem test_jpV0_unmasked : seen (oneReg 0 0xFF) 0xBFFF (fun t => t.pc) = some 0x10FE := by decide
theorem test_jpV0_index : seen (twoRegs 0 0x20 0xF 0x99) 0xBFF0 (fun t => t.pc) = some 0x1010 := by decide

/-! ## Loads and arithmetic -/

/-- Vector S1. -/
theorem test_ldImm : seen State.reset 0x6A12 (fun t => (t.getV 0xA, t.pc)) = some (0x12, 0x202) := by decide

/-- Vectors A2, A4. -/
theorem test_addImm_wraps : seen (twoRegs 0 0xFF 15 0x55) 0x7001 (fun t => (t.getV 0, t.getV 15)) = some (0, 0x55) := by
  decide
theorem test_addImm_vf : seen (oneReg 15 0xFF) 0x7F02 (fun t => t.getV 15) = some 0x01 := by decide

/-- Vector A5. -/
theorem test_ldReg : seen (oneReg 5 0x33) 0x8150 (fun t => (t.getV 1, t.getV 5)) = some (0x33, 0x33) := by decide

/-- Vector A6: VF is not reset. -/
theorem test_or :
    seen ((twoRegs 1 0x0F 2 0xF0).setV 15 1) 0x8121 (fun t => (t.getV 1, t.getV 15)) = some (0xFF, 1) := by decide

/-- Vector A7. -/
theorem test_and : seen (twoRegs 1 0x3C 2 0x0F) 0x8122 (fun t => t.getV 1) = some 0x0C := by decide

/-- Vectors A8, A9. -/
theorem test_xor : seen (twoRegs 1 0x3C 2 0x0F) 0x8123 (fun t => t.getV 1) = some 0x33 := by decide
theorem test_xor_self : seen (oneReg 4 0x5A) 0x8443 (fun t => t.getV 4) = some 0 := by decide

/-- Vectors A10, A13: a sum of 255 is no carry; with x = F the result wins. -/
theorem test_addReg_255 :
    seen (twoRegs 1 0x80 2 0x7F) 0x8124 (fun t => (t.getV 1, t.getV 15)) = some (0xFF, 0) := by decide
theorem test_addReg_vf_destination : seen (twoRegs 15 0xFF 1 0x01) 0x8F14 (fun t => t.getV 15) = some 0 := by decide

/-- Vectors A16, S4. -/
theorem test_sub_equal : seen (twoRegs 1 0x42 2 0x42) 0x8125 (fun t => (t.getV 1, t.getV 15)) = some (0, 0) := by decide
theorem test_sub_borrow : seen (twoRegs 1 1 2 2) 0x8125 (fun t => (t.getV 1, t.getV 15)) = some (0xFF, 0) := by decide

/-- Vectors A20, A21. -/
theorem test_shr_ignores_y :
    seen (twoRegs 3 4 7 0xFF) 0x8376 (fun t => (t.getV 3, t.getV 15, t.getV 7)) = some (2, 0, 0xFF) := by decide
theorem test_shr_vf_destination : seen (oneReg 15 6) 0x8F06 (fun t => t.getV 15) = some 3 := by decide

/-- Vectors A22, A25: the destination is Vx; y = F reads the old VF. -/
theorem test_subn :
    seen (twoRegs 1 2 2 5) 0x8127 (fun t => (t.getV 1, t.getV 15, t.getV 2)) = some (3, 1, 5) := by decide
theorem test_subn_vf_source : seen (twoRegs 1 1 15 3) 0x81F7 (fun t => (t.getV 1, t.getV 15)) = some (2, 1) := by decide

/-- Vectors A28, A30. -/
theorem test_shl_to_zero : seen (oneReg 3 0x80) 0x830E (fun t => (t.getV 3, t.getV 15)) = some (0, 1) := by decide
theorem test_shl_vf_destination : seen (oneReg 15 0x81) 0x8FFE (fun t => t.getV 15) = some 2 := by decide

/-- Vectors A31, A33, the draw being the meaning's argument. -/
theorem test_rnd_masks : (rndWith 0xA7 3 0x0F State.reset).getV 3 = 0x07 := by decide
theorem test_rnd_vf : (rndWith 0x5A 15 0xFF State.reset).getV 15 = 0x5A := by decide

/-! ## Index register and memory transfer -/

/-- Vector M1. -/
theorem test_ldI : seen State.reset 0xAFFF (fun t => t.i) = some 0x0FFF := by decide

/-- Vectors M2, M3. -/
theorem test_addI_past_4k :
    seen { oneReg 1 3 with i := 0x0FFE } 0xF11E (fun t => (t.i, t.getV 15)) = some (0x1001, 0) := by decide
theorem test_addI_wraps : seen { oneReg 1 2 with i := 0xFFFF } 0xF11E (fun t => t.i) = some 0x0001 := by decide

/-- Vectors M5, M6. -/
theorem test_ldF_unmasked : seen (oneReg 0 0x10) 0xF029 (fun t => t.i) = some 0x0050 := by decide
theorem test_ldF_largest : seen (oneReg 0 0xFF) 0xF029 (fun t => t.i) = some 0x04FB := by decide

/-- Vectors M10, M11. -/
theorem test_ldB_top :
    seen { oneReg 3 0x7B with i := 0xFFD } 0xF333 (fun t => (t.memRead 0xFFD, t.memRead 0xFFE, t.memRead 0xFFF)) =
      some (.ok 1, .ok 2, .ok 3) := by decide
theorem test_ldB_fault : faults { oneReg 3 0x7B with i := 0xFFE } 0xF333 (.memoryFault 0x1000) 0x200 = true := by decide

/-- Vectors M12, M14. -/
theorem test_store_one :
    seen { twoRegs 0 0xAA 1 0xBB with i := 0x300 } 0xF055 (fun t => (t.memRead 0x300, t.memRead 0x301, t.i)) =
      some (.ok 0xAA, .ok 0, 0x300) := by decide
theorem test_store_fault : faults { State.reset with i := 0xFF1 } 0xFF55 (.memoryFault 0x1000) 0x200 = true := by decide

/-- Vectors M16, M17. -/
theorem test_load_vf :
    seen { State.reset with i := 0x300, mem := [(0x30F, 0x77)] } 0xFF65 (fun t => (t.getV 14, t.getV 15, t.i)) =
      some (0, 0x77, 0x300) := by decide
theorem test_load_fault : faults { State.reset with i := 0x1001 } 0xF065 (.memoryFault 0x1001) 0x200 = true := by decide

/-! ## Display -/

/-- Vector S2, of the three pixels it names. -/
theorem test_cls :
    seen { State.reset with
        disp := (((Vector.replicate 32 0).set 0 1).set 31 (BitVec.twoPow 64 63)).set 20 (BitVec.twoPow 64 10) } 0x00E0
      (fun t => (t.disp, t.pc)) = some (Vector.replicate 32 0, 0x202) := by decide

/-- Vector D3: columns 62, 63, 0 and 1 of row 31. -/
theorem test_drw_wraps :
    seen ((spriteAt 0x300 0xF0).setV 1 0x3E |>.setV 2 0x1F) 0xD121
      (fun t => (t.disp[31], t.disp[0], t.getV 15)) = some (0xC000000000000003, 0, 0) := by decide

/-- Vector D6: pixel 3 is turned off and pixel 4 on. -/
theorem test_drw_collides :
    seen { spriteAt 0x300 0x18 with disp := (Vector.replicate 32 0).set 0 0xF } 0xD001
      (fun t => (t.disp[0], t.getV 15)) = some (0b10111, 1) := by decide

/-! ## Keys, timers, ticks -/

/-- Vectors K2, K1. -/
theorem test_skp_pressed : seen { oneReg 5 0xA with keys := 0x0400 } 0xE59E (fun t => t.pc) = some 0x204 := by decide
theorem test_skp_fault : faults (oneReg 5 0x10) 0xE59E (.keyIndexFault 0x10) 0x200 = true := by decide

/-- Vectors K4, K5. -/
theorem test_sknp_reset : seen (oneReg 5 0xA) 0xE5A1 (fun t => t.pc) = some 0x204 := by decide
theorem test_sknp_fault : faults (oneReg 15 0xFF) 0xEFA1 (.keyIndexFault 0xFF) 0x200 = true := by decide

/-- Vector K6. -/
theorem test_ldVxDt : seen { State.reset with dt := 0x3C } 0xF307 (fun t => t.getV 3) = some 0x3C := by decide

/-- Vectors K7, K9: the smallest key; with none the PC is held and the step counts. -/
theorem test_wait_smallest :
    seen { State.reset with keys := 0x0208 } 0xF00A (fun t => (t.getV 0, t.pc)) = some (3, 0x202) := by decide
theorem test_wait_holds :
    seen State.reset 0xF00A (fun t => (t.pc, t.stepCnt, t.awaitingKey)) = some (0x200, 1, true) := by decide

/-- Vectors K10, K11. -/
theorem test_ldDt : seen (oneReg 2 0x3C) 0xF215 (fun t => t.dt) = some 0x3C := by decide
theorem test_ldSt : seen (oneReg 2 5) 0xF218 (fun t => (t.st, t.soundOn)) = some (5, false) := by decide

/-- What a counted step of an instruction's result leaves of the timers, the gate, STEPCNT and the keys. -/
def counted (p : Nat) (k : Keys) (s : State) : Byte × Byte × Bool × Nat × Keys :=
  let t := s.countStep p k
  (t.dt, t.st, t.soundOn, t.stepCnt, t.keys)

/-- Vectors T1, T2, T3: the timers stay at 0, and the gate follows ST after its decrement. -/
theorem test_tick_saturates : counted 1 0 State.reset = (0, 0, false, 0, 0) := by decide
theorem test_tick_sound_on : counted 1 0 { State.reset with st := 2 } = (0, 1, true, 0, 0) := by decide
theorem test_tick_sound_off : counted 1 0 { State.reset with st := 1 } = (0, 0, false, 0, 0) := by decide

/-- Vectors T4, T5. -/
theorem test_no_tick : counted 3 0x0100 { State.reset with stepCnt := 1, dt := 5 } = (5, 0, false, 2, 0) := by decide
theorem test_tick_latches :
    counted 3 0x0100 { State.reset with stepCnt := 2, dt := 5 } = (4, 0, false, 0, 0x0100) := by decide

/-- Vector T6: no tick after a step that faults. -/
theorem test_no_tick_after_fault :
    faults { State.reset with stepCnt := 999, dt := 5 } 0x00EE (.stackUnderflow 0) 0x200 = true := by decide

/-- R281 and R282: the bit of `fb_out` for pixel (63, 31) is bit 2047. -/
theorem test_present : ({ State.reset with disp := (Vector.replicate 32 0).set 31 (BitVec.twoPow 64 63) } :
    State).presentDisplay.fbOutBit 2047 = true := by decide

/-! ## The end of a run (R311) -/

/-- 6000 at 0x200 and a jump to itself at 0x202. -/
def toHalt : State := { State.reset with mem := [(0x200, 0x60), (0x202, 0x12), (0x203, 0x02)] }

/-- The run ends at halt_pc = 0x202 after one step, and not before. -/
theorem test_end_at_halt_pc : ∃ t, EndsAt 1000 (fun _ => 0) 0x202 1 toHalt t :=
  ⟨_, rfl, by decide, by decide, by
    intro m u lt h
    obtain rfl : m = 0 := by omega
    cases h; decide⟩

/-- A jump elsewhere at `halt_pc` is no end: 0x202 holds 1204 in this state. -/
theorem test_no_end_without_self_jump :
    ({ toHalt with pc := 0x202, mem := [(0x202, 0x12), (0x203, 0x04)] } : State).selfJump = false := by decide

/-- A step at the end goes on counting, and stays there. -/
theorem test_steps_go_on_at_halt :
    seen { State.reset with pc := 0x202, dt := 7, stepCnt := 3 } 0x1202 (fun t => (t.pc, t.dt, t.stepCnt, t.status)) =
      some (0x202, 7, 4, .running) := by decide

/-- Vector F1's fault ends the run (R311 (a)). -/
theorem test_ends_faulted : ∃ t, EndsFaulted 1000 (fun _ => 0) 1 (State.reset.withFetchWord 16 0x00EE) t :=
  ⟨_, rfl, by decide, by
    intro m u lt h
    obtain rfl : m = 0 := by omega
    cases h; decide⟩

/-! ## Witnesses: a concrete state and operands that meet a statement's hypotheses together, clause by clause, at the
boundary values of each clause -/

/-- The reset state with an instruction placed at 0x200. -/
def placed (w : Nat) : State := State.reset.withFetchWord 16 w

/-- The state after an instruction, where it answers one. -/
def result (i : Instr) (s : State) : State :=
  match exec i s with
  | .next t => t
  | .fault _ => s
  | .refused _ => s

/-- Of the encoding statements: every row's mask and match select a word. -/
theorem witness_Encodes :
    0x1FFF &&& 0xF000 = 0x1000#16 ∧ 0x2000 &&& 0xF000 = 0x2000#16 ∧ 0x3FFF &&& 0xF000 = 0x3000#16 ∧
    0x4000 &&& 0xF000 = 0x4000#16 ∧ 0x512F &&& 0xF000 = 0x5000#16 ∧ 0x6A12 &&& 0xF000 = 0x6000#16 ∧
    0x7001 &&& 0xF000 = 0x7000#16 ∧ 0x9137 &&& 0xF000 = 0x9000#16 ∧ 0xAFFF &&& 0xF000 = 0xA000#16 ∧
    0xBFF0 &&& 0xF000 = 0xB000#16 ∧ 0xC30F &&& 0xF000 = 0xC000#16 ∧ 0xD12F &&& 0xF000 = 0xD000#16 ∧
    0x8FF0 &&& 0xF00F = 0x8000#16 ∧ 0x8001 &&& 0xF00F = 0x8001#16 ∧ 0x8122 &&& 0xF00F = 0x8002#16 ∧
    0x8123 &&& 0xF00F = 0x8003#16 ∧ 0x8124 &&& 0xF00F = 0x8004#16 ∧ 0x8125 &&& 0xF00F = 0x8005#16 ∧
    0x8376 &&& 0xF00F = 0x8006#16 ∧ 0x8127 &&& 0xF00F = 0x8007#16 ∧ 0x839E &&& 0xF00F = 0x800E#16 ∧
    0xE59E &&& 0xF0FF = 0xE09E#16 ∧ 0xEFA1 &&& 0xF0FF = 0xE0A1#16 ∧ 0xF307 &&& 0xF0FF = 0xF007#16 ∧
    0xFF0A &&& 0xF0FF = 0xF00A#16 ∧ 0xF215 &&& 0xF0FF = 0xF015#16 ∧ 0xF218 &&& 0xF0FF = 0xF018#16 ∧
    0xF11E &&& 0xF0FF = 0xF01E#16 ∧ 0xFA29 &&& 0xF0FF = 0xF029#16 ∧ 0xF333 &&& 0xF0FF = 0xF033#16 ∧
    0xF155 &&& 0xF0FF = 0xF055#16 ∧ 0xFF65 &&& 0xF0FF = 0xF065#16 ∧ 0x00E0 &&& 0xFFFF = 0x00E0#16 ∧
    0x00EE &&& 0xFFFF = 0x00EE#16 := by decide

theorem witness_DecodeOfEncodeIsInstr : (Instr.drw 15 0 15).wellFormed = true ∧ (Instr.call 0xFFF).wellFormed = true := by
  decide

theorem witness_DecodeGivesWellFormed : decode 0x1FFF#16 = .instr (.jp 0xFFF) := by decide

theorem witness_DecodeFollowsOpcodeMap :
    decode 0x5FFF#16 = .instr (.seReg 15 15) ∧ 0x800E#16 &&& (opcodeRow (.shl 3)).1 = (opcodeRow (.shl 3)).2 := by decide

/-- R98 at the first and last word of each of its four lists, and at words beside them. -/
theorem witness_UnrecognizedWordsAreTheListed :
    decode 0x0FFF#16 = .unrecognized 0x0FFF ∧ decode 0x8FFF#16 = .unrecognized 0x8FFF ∧
    decode 0xE000#16 = .unrecognized 0xE000 ∧ decode 0xEFFF#16 = .unrecognized 0xEFFF ∧
    decode 0xFFFF#16 = .unrecognized 0xFFFF ∧ decode 0x1000#16 ≠ .unrecognized 0x1000 ∧
    decode 0x800E#16 ≠ .unrecognized 0x800E ∧ decode 0xF065#16 ≠ .unrecognized 0xF065 := by decide

theorem witness_StepRunsDecodedInstruction :
    (placed 0x6A12).status = .running ∧ (placed 0x6A12).memRead (placed 0x6A12).pc.toNat = .ok 0x6A ∧
    (placed 0x6A12).memRead ((placed 0x6A12).pc.toNat + 1) = .ok 0x12 ∧
    decode (wordOfBytes 0x6A 0x12) = .instr (.ldImm 0xA 0x12) ∧
    ∃ t, exec (.ldImm 0xA 0x12) (placed 0x6A12) = .next t :=
  ⟨by decide, by decide, by decide, by decide, _, rfl⟩

/-- Reset memory holds the word 0x0000 at 0x200, which selects no row. -/
theorem witness_UnrecognizedWordIsDiagnosedNoOp :
    State.reset.status = .running ∧ State.reset.memRead State.reset.pc.toNat = .ok 0 ∧
    State.reset.memRead (State.reset.pc.toNat + 1) = .ok 0 ∧ SelectsNoRow (wordOfBytes 0 0) :=
  ⟨by decide, by decide, by decide, by intro i; cases i <;> (simp only [opcodeRow]; decide)⟩

theorem witness_FaultedStepHasNoEffect :
    (State.reset.takeFault (.stackUnderflow 0)).status = .faulted (.stackUnderflow 0) 0x200 := by decide

/-- At an odd PC too. -/
theorem witness_FetchIsBigEndian :
    (placed 0x1234).memRead (placed 0x1234).pc.toNat = .ok 0x12 ∧
    (placed 0x1234).memRead ((placed 0x1234).pc.toNat + 1) = .ok 0x34 ∧
    ((placed 0x1234).jump 0x201).memRead 0x201 = .ok 0x34 ∧ ((placed 0x1234).jump 0x201).memRead 0x202 = .ok 0 := by
  decide

/-- The two cases of the address, each at its boundary, and the largest PC. -/
theorem witness_FetchPastMemoryFaults :
    (State.reset.jump 0xFFF).status = .running ∧ 0x0FFF ≤ (State.reset.jump 0xFFF).pc.toNat ∧
    0x0FFF ≤ (State.reset.jump 0x1000).pc.toNat ∧ 0x0FFF ≤ (State.reset.jump 0xFFFF).pc.toNat := by decide

/-- The font's last byte, the byte after it, and memory's last byte. -/
theorem witness_ResetState :
    State.reset.memRead 79 = .ok (Config.font 79) ∧ State.reset.memRead 80 = .ok 0 ∧
    State.reset.memRead 4095 = .ok 0 ∧ pixel State.reset.disp 63 31 = false ∧
    State.reset.fbOutBit 2047 = false := ⟨rfl, rfl, rfl, by decide, by decide⟩

/-- Reset meets the invariant for a period of 1, and so does a state with a fault recorded. -/
theorem witness_StepKeepsInvariant :
    State.reset.Inv 1 = true ∧ (State.reset.takeFault (.memoryFault 0x1000)).Inv 1 = true ∧
    (State.reset.takeFault (.memoryFault 0x1000E)).Inv 1 = true ∧ (∃ t, step State.reset = .next t) ∧
    State.reset.Inv Config.cyclesPerTick = true :=
  ⟨by decide, by decide, by decide, ⟨_, rfl⟩, by
    simp only [State.Inv, Config.cyclesPerTick, Bool.and_eq_true]
    exact ⟨⟨rfl, decide_eq_true (Nat.succ_pos _)⟩, rfl⟩⟩

theorem witness_FaultingStepChangesOnlyStatus :
    (placed 0x00EE).status = .running ∧
    step (placed 0x00EE) = .next ((placed 0x00EE).takeFault (.stackUnderflow 0)) ∧
    ((placed 0x00EE).takeFault (.stackUnderflow 0)).status ≠ .running :=
  ⟨by decide, rfl, by decide⟩

/-- Each row of the table at the last operand that raises no fault and the first that raises it. -/
theorem witness_FaultsAreThoseListed :
    State.reset.status = .running ∧
    faultOf .ret (stacked 1 0) = none ∧ faultOf .ret (stacked 0 0) = some (.stackUnderflow 0) ∧
    faultOf (.call 0) (stacked 15 0) = none ∧ faultOf (.call 0) (stacked 16 0) = some (.stackOverflow 16) ∧
    faultOf (.drw 0 0 1) (State.reset.setI 0xFFF) = none ∧ faultOf (.drw 0 0 0) (State.reset.setI 0xFFFF) = none ∧
    faultOf (.drw 0 0 2) (State.reset.setI 0xFFF) = some (.memoryFault 0x1000) ∧
    faultOf (.ldB 0) (State.reset.setI 0xFFD) = none ∧
    faultOf (.ldB 0) (State.reset.setI 0xFFE) = some (.memoryFault 0x1000) ∧
    faultOf (.ldMemStore 15) (State.reset.setI 0xFF0) = none ∧
    faultOf (.ldMemStore 15) (State.reset.setI 0xFF1) = some (.memoryFault 0x1000) ∧
    faultOf (.ldMemLoad 0) (State.reset.setI 0xFFF) = none ∧
    faultOf (.ldMemLoad 0) (State.reset.setI 0xFFFF) = some (.memoryFault 0xFFFF) ∧
    faultOf (.skp 5) (oneReg 5 15) = none ∧ faultOf (.sknp 5) (oneReg 5 16) = some (.keyIndexFault 16) := by decide

/-- An instruction of each class that raises no fault: sequential, skip taken and not, explicit, hold. -/
theorem witness_NextPcFollowsClass :
    State.reset.status = .running ∧
    (∃ t, exec .cls State.reset = .next t ∧ t.status = .running) ∧
    (∃ t, exec (.seImm 0 0) State.reset = .next t ∧ t.status = .running) ∧
    (∃ t, exec (.seImm 0 1) State.reset = .next t ∧ t.status = .running) ∧
    (∃ t, exec (.call 0xFFF) (stacked 15 0) = .next t ∧ t.status = .running) ∧
    (∃ t, exec .ret (stacked 1 0x206) = .next t ∧ t.status = .running) ∧
    (∃ t, exec (.ldVxK 0) State.reset = .next t ∧ t.status = .running) ∧
    (∃ t, execUnrecognized 0x0123 State.reset = .next t) :=
  ⟨rfl, ⟨_, rfl, rfl⟩, ⟨_, rfl, rfl⟩, ⟨_, rfl, rfl⟩, ⟨_, rfl, rfl⟩, ⟨_, rfl, rfl⟩, ⟨_, rfl, rfl⟩, ⟨_, rfl⟩⟩

/-- A step that is the period's last and one that is not; the last one moves the timers and the gate, T5 and T2. -/
theorem witness_CadenceCountsSteps :
    (({ State.reset with stepCnt := 2, dt := 5, st := 2 } : State).countStep 3 0x0100).dt = 4 ∧
    (({ State.reset with stepCnt := 2, dt := 5, st := 2 } : State).countStep 3 0x0100).soundOn = true ∧
    (({ State.reset with stepCnt := 1, dt := 5 } : State).countStep 3 0x0100).dt = 5 ∧
    (placed 0x6000).status = .running ∧ (placed 0x6000).stepCnt + 1 = 1 ∧ (placed 0x6000).stepCnt + 1 ≠ 2 ∧
    (∃ t, stepWith 1 0xFFFF (placed 0x6000) = .next t ∧ t.status = .running) ∧
    (∃ t, stepWith 2 0xFFFF (placed 0x6000) = .next t ∧ t.status = .running) :=
  ⟨by decide, by decide, by decide, by decide, by decide, by decide, ⟨_, rfl, by decide⟩, ⟨_, rfl, by decide⟩⟩

/-- ST at 1 and at 2, the two sides of the gate. -/
theorem witness_TickCountsDownGatesAndLatches :
    ({ State.reset with st := 1 }.tick 0).soundOn = false ∧ ({ State.reset with st := 2 }.tick 0).soundOn = true := by
  decide

theorem witness_PresentedCopyIsTheDisplay : 63 < 64 ∧ 31 < 32 ∧ 31 * 64 + 63 = 2047 := by decide

theorem witness_OnlyCallAndRetTouchTheStack :
    (∃ t, exec .cls State.reset = .next t) ∧ Instr.cls ≠ .ret ∧ (∀ nnn, Instr.cls ≠ .call nnn) ∧
    (∃ t, exec .ret (stacked 1 0x206) = .next t) ∧ (∃ t, exec (.call 0x300) (stacked 15 0) = .next t) ∧
    (0 : Fin 16).val ≠ (stacked 15 0).sp.val :=
  ⟨⟨_, rfl⟩, by decide, nofun, ⟨_, rfl⟩, ⟨_, rfl⟩, by decide⟩

theorem witness_OnlyClsAndDrwChangeTheDisplay :
    (∃ t, exec (.ldB 0) (State.reset.setI 0x300) = .next t) ∧ Instr.ldB 0 ≠ .cls ∧ ∀ x y n, Instr.ldB 0 ≠ .drw x y n :=
  ⟨⟨_, rfl⟩, by decide, nofun⟩

theorem witness_OnlyBcdAndStoreChangeMemory :
    (∃ t, exec (.drw 0 0 1) (State.reset.setI 0x300) = .next t) ∧ (∀ x, Instr.drw 0 0 1 ≠ .ldB x) ∧
    ∀ x, Instr.drw 0 0 1 ≠ .ldMemStore x := ⟨⟨_, rfl⟩, nofun, nofun⟩

/-- FX65 with x = 3 writes V3 and not V4. -/
theorem witness_OnlyListedRegistersAreWritten :
    (∃ t, exec (.ldMemLoad 3) (State.reset.setI 0x300) = .next t) ∧ ¬writesReg (.ldMemLoad 3) 4 ∧
    writesReg (.ldMemLoad 3) 3 := ⟨⟨_, rfl⟩, by unfold writesReg; decide, by unfold writesReg; decide⟩

/-- FX55 with x = 3 reads V3 and not V4. -/
theorem witness_OnlyListedRegistersAreRead :
    ¬readsReg (.ldMemStore 3) 4 ∧ readsReg (.ldMemStore 3) 3 ∧
    (∃ t, exec (.ldMemStore 3) (State.reset.setI 0x300) = .next t) ∧
    ∃ u, exec (.ldMemStore 3) ((State.reset.setI 0x300).setV 4 0xFF) = .next u :=
  ⟨by unfold readsReg; decide, by unfold readsReg; decide, ⟨_, rfl⟩, ⟨_, rfl⟩⟩

theorem witness_FlagIsZeroOrOne :
    State.reset.status = .running ∧ setsFlag (.addReg 14 15) ∧ setsFlag (.drw 15 15 0) ∧
    (∃ t, exec (.addReg 14 15) State.reset = .next t ∧ t.status = .running) ∧
    (∃ t, exec (.drw 15 15 0) State.reset = .next t ∧ t.status = .running) :=
  ⟨rfl, by unfold setsFlag; decide, by unfold setsFlag; decide, ⟨_, rfl, rfl⟩, ⟨_, rfl, rfl⟩⟩

theorem witness_HiddenStateIsNeverRead : ∃ t, exec (.ldVxK 0) State.reset = .next t := ⟨_, rfl⟩

/-- The last address of memory and the first past it. -/
theorem witness_MemReadAndMemWrite :
    State.reset.mem.wf = true ∧ 4095 < 4096 ∧ 4096 ≤ 4096 ∧
    (∃ t, State.reset.memWrite 4095 0xAB = .ok t ∧ t.memRead 4095 = .ok 0xAB ∧ t.memRead 4094 = .ok 0) ∧
    State.reset.memWrite 4096 0xAB = .error (.memoryFault 4096) :=
  ⟨rfl, by decide, by decide, ⟨_, rfl, rfl, rfl⟩, rfl⟩

/-- A load that just fits and one a byte longer; ROMs of 3584 and 3585 bytes. -/
theorem witness_LoadCopiesAllOrFails :
    State.reset.mem.wf = true ∧ 4094 + [1, 2].length ≤ 4096 ∧ 4096 < 4095 + [1, 2].length ∧
    (List.replicate 3584 (0xFF : Byte)).length ≤ 3584 ∧ 3584 < (List.replicate 3585 (0xFF : Byte)).length :=
  ⟨rfl, by decide, by decide, by rw [List.length_replicate], by rw [List.length_replicate]; decide⟩

/-- Vector M18: FX55 stores 0x1202 over the word after it. -/
theorem witness_StoredBytesAreFetched :
    let s := { twoRegs 0 0x12 1 0x02 with i := 0x202, mem := [(0x200, 0xF1), (0x201, 0x55)] }
    s.mem.wf = true ∧ s.status = .running ∧ 1 ≤ (1 : Reg).val ∧
    ∃ t, exec (.ldMemStore 1) s = .next t ∧ t.status = .running ∧ t.pc.toNat = s.base ∧ t.fetch = .ok 0x1202 :=
  ⟨by decide, by decide, by decide, _, rfl, by decide, by decide, by decide⟩

/-- SP at 15, the last that pushes, and at 16. -/
theorem witness_CallPushesOrOverflows : (stacked 15 0).sp.val < 16 ∧ (stacked 16 0).sp.val = 16 := by decide

/-- SP at 1, at 16 and at 0. -/
theorem witness_RetPopsOrUnderflows :
    (stacked 1 0x206).sp.val = (0 : Fin 16).val + 1 ∧ (stacked 16 0x206).sp.val = (15 : Fin 16).val + 1 ∧
    (stacked 0 0).sp.val = 0 := by decide

theorem witness_CallThenRetResumesAfterCall :
    (stacked 15 0).sp.val < 16 ∧ (∃ t, exec (.call 0x300) (stacked 15 0) = .next t) ∧
    ∃ u, exec .ret (result (.call 0x300) (stacked 15 0)) = .next u := ⟨by decide, ⟨_, rfl⟩, ⟨_, rfl⟩⟩

/-- The skip statements' conditions, both ways. -/
theorem witness_Skips :
    (oneReg 15 1).getV 15 = 1 ∧ (oneReg 15 2).getV 15 ≠ 1 ∧ (twoRegs 1 3 2 3).getV 1 = (twoRegs 1 3 2 3).getV 2 ∧
    (twoRegs 1 3 2 4).getV 1 ≠ (twoRegs 1 3 2 4).getV 2 := by decide

theorem witness_JpV0AddsV0 : nnnInRange 0xFFF = true ∧ (oneReg 0 0xFF).getV 0 = 0xFF := by decide

/-- Both sides of each flag: sums of 255 and 256, equal and unequal minuends; and a destination that is not VF. -/
theorem witness_Flags :
    (14 : Reg) ≠ 15 ∧ ¬0x80 + 0x7F > 255 ∧ 0x80 + 0x80 > 255 ∧
    carryFlag 0x80 0x7F = 0 ∧ carryFlag 0x80 0x80 = 1 ∧ greaterFlag 0x42 0x42 = 0 ∧ greaterFlag 0x43 0x42 = 1 := by decide

theorem witness_RndMasksFreeDraw : (0 : Byte) = 0 ∧ (1 : Reg) ≠ 0 := by decide

/-- I at 0xFFD, the last that fits, and at 0xFFE. -/
theorem witness_BcdStoresDigits :
    State.reset.mem.wf = true ∧ (State.reset.setI 0xFFD).base + 2 < 4096 ∧ 4096 ≤ (State.reset.setI 0xFFE).base + 2 ∧
    4096 ≤ (State.reset.setI 0xFFFF).base + 2 := by decide

/-- I at 0xFF0, the last that fits all sixteen registers, and at 0xFF1. -/
theorem witness_StoreWritesRegisters :
    State.reset.mem.wf = true ∧ (State.reset.setI 0xFF0).base + (15 : Reg).val < 4096 ∧
    4096 ≤ (State.reset.setI 0xFF1).base + (15 : Reg).val := by decide

theorem witness_LoadReadsRegisters :
    (State.reset.setI 0xFFF).base + (0 : Reg).val < 4096 ∧ 4096 ≤ (State.reset.setI 0x1000).base + (0 : Reg).val := by
  decide

/-- Vector S7: the registers are changed between the store and the load. -/
theorem witness_StoreThenLoadRestores :
    let s := { twoRegs 0 0x11 3 0x44 with i := 0x300 }
    s.mem.wf = true ∧ s.base + (3 : Reg).val < 4096 ∧
    ∃ t, exec (.ldMemStore 3) s = .next t ∧ (t.setV 3 0).mem = t.mem ∧ (t.setV 3 0).i = s.i ∧
      ∃ w, exec (.ldMemLoad 3) (t.setV 3 0) = .next w ∧ w.getV 3 = 0x44 :=
  ⟨by decide, by decide, _, rfl, rfl, rfl, _, rfl, by decide⟩

/-- n = 0 with I past memory; the last byte of memory; and a second row past it. -/
theorem witness_DrawXorsSprite :
    ((0 : Fin 16).val = 0 ∨ (State.reset.setI 0x1000).base + (0 : Fin 16).val ≤ 4096) ∧
    ((1 : Fin 16).val = 0 ∨ (State.reset.setI 0xFFF).base + (1 : Fin 16).val ≤ 4096) ∧
    1 ≤ (2 : Fin 16).val ∧ 4096 < (State.reset.setI 0xFFF).base + (2 : Fin 16).val ∧
    SpriteCovers (spriteAt 0xFFF 0x80) 0 0 1 0 0 ∧ ¬SpriteCovers (spriteAt 0xFFF 0x80) 0 0 1 0 1 := by
  refine ⟨by decide, by decide, by decide, by decide, ⟨0, 0, 0x80, by decide, by decide, by decide, by decide, by decide, by decide⟩, ?_⟩
  rintro ⟨r, c, b, hr, -, -, -, -, hy⟩
  have hz : r = 0 := by omega
  subst hz
  exact absurd hy (by decide)

/-- Vectors S5a, S5b: a row of the sprite is not empty. -/
theorem witness_DrawTwiceRestoresDisplay :
    (1 : Reg) ≠ 15 ∧ (2 : Reg) ≠ 15 ∧ (spriteAt 0x300 0xFF).base + (1 : Fin 16).val ≤ 4096 ∧
    (spriteAt 0x300 0xFF).disp = clearDisplay ∧ (∃ t, exec (.drw 1 2 1) (spriteAt 0x300 0xFF) = .next t) ∧
    (∃ u, exec (.drw 1 2 1) (result (.drw 1 2 1) (spriteAt 0x300 0xFF)) = .next u) ∧
    ∃ px py, SpriteCovers (spriteAt 0x300 0xFF) 1 2 1 px py :=
  ⟨by decide, by decide, by decide, by decide, ⟨_, rfl⟩, ⟨_, rfl⟩, 7, 0, 0, 7, 0xFF, by decide, by decide, by decide, by decide, by decide, by decide⟩

/-- Key indexes 15 and 16, pressed and not. -/
theorem witness_SkipsOnKey :
    ((oneReg 5 15).getV 5).toNat < 16 ∧ 16 ≤ ((oneReg 5 16).getV 5).toNat ∧
    ({ oneReg 5 15 with keys := 0x8000 } : State).keys.getLsbD 15 = true ∧
    (oneReg 5 15).keys.getLsbD 15 = false := by decide

/-- The smallest of two pressed keys, the largest key alone, and no key. -/
theorem witness_WaitTakesSmallestKey :
    (3 < 16 ∧ (0x0208#16).getLsbD 3 = true ∧ ∀ j, j < 3 → (0x0208#16).getLsbD j = false) ∧
    (15 < 16 ∧ (0x8000#16).getLsbD 15 = true ∧ ∀ j, j < 15 → (0x8000#16).getLsbD j = false) ∧
    ∀ k, k < 16 → State.reset.keys.getLsbD k = false := by decide

/-- `awaiting_key` on, and off for each of its three conditions alone; a jump to itself, and one that is not. -/
theorem witness_AwaitingKeyHoldsTheProgram :
    (placed 0xF00A).awaitingKey = true ∧ ({ placed 0xF00A with keys := 0x8000 } : State).awaitingKey = false ∧
    (placed 0x6000).awaitingKey = false ∧ ((placed 0xF00A).takeFault (.stackUnderflow 0)).awaitingKey = false ∧
    (placed 0x1200).status = .running ∧ (placed 0x1200).selfJump = true ∧ (placed 0x1202).selfJump = false := by decide

end Sys2Proof.Tests
end

/-! PROOF. What an instruction does, said once for all 34: it enters the fault that the table of R271 gives it
(`faultOf`), or else completes with one state (`effectOf`). The statements about all instructions are derived from
`exec_eq` and from what `effectOf` does to each part of the state. -/

namespace Sys2Proof.Machine

/-! ### The effect of an instruction -/

/-- The n bytes from the address in I up. -/
def State.bytesAtI (s : State) (n : Nat) : List Byte := (List.range n).map fun k => s.mem.get (s.base + k)

/-- The state in which an instruction completes where it raises no fault. `exec_eq` ties it to `exec`. -/
def effectOf (i : Instr) (s : State) : State :=
  match i with
  | .cls => (s.setDisp clearDisplay).advance
  | .ret => (s.setStack s.stack (s.sp - 1)).jump (s.stack[s.sp.val - 1]'s.sp_pred_lt)
  | .jp nnn => s.jump nnn
  | .call nnn => (s.setStack (s.stack.setIfInBounds s.sp.val (s.pc + 2)) (s.sp + 1)).jump nnn
  | .seImm x nn => s.jump (s.pc + if s.getV x == nn then 4 else 2)
  | .sneImm x nn => s.jump (s.pc + if s.getV x != nn then 4 else 2)
  | .seReg x y => s.jump (s.pc + if s.getV x == s.getV y then 4 else 2)
  | .sneReg x y => s.jump (s.pc + if s.getV x != s.getV y then 4 else 2)
  | .ldImm x nn => (s.setV x nn).advance
  | .addImm x nn => (s.setV x (s.getV x + nn)).advance
  | .ldReg x y => (s.setV x (s.getV y)).advance
  | .orReg x y => (s.setV x (s.getV x ||| s.getV y)).advance
  | .andReg x y => (s.setV x (s.getV x &&& s.getV y)).advance
  | .xorReg x y => (s.setV x (s.getV x ^^^ s.getV y)).advance
  | .addReg x y => (s.setFlagThen (carryFlag (s.getV x) (s.getV y)) x (s.getV x + s.getV y)).advance
  | .sub x y => (s.setFlagThen (greaterFlag (s.getV x) (s.getV y)) x (s.getV x - s.getV y)).advance
  | .shr x => (s.setFlagThen (lowBitFlag (s.getV x)) x (s.getV x >>> 1)).advance
  | .subn x y => (s.setFlagThen (greaterFlag (s.getV y) (s.getV x)) x (s.getV y - s.getV x)).advance
  | .shl x => (s.setFlagThen (highBitFlag (s.getV x)) x (s.getV x <<< 1)).advance
  | .ldI nnn => (s.setI nnn).advance
  | .jpV0 nnn => s.jump (nnn + (s.getV 0).setWidth 16)
  | .rnd x nn => rndWith (Config.randIn s.randDraws) x nn s
  | .drw x y n => (s.drawSprite x y (s.bytesAtI n.val)).advance
  | .skp x => s.jump (s.pc + if s.key (s.getV x).toNat then 4 else 2)
  | .sknp x => s.jump (s.pc + if !s.key (s.getV x).toNat then 4 else 2)
  | .ldVxDt x => (s.setV x s.dt).advance
  | .ldVxK x =>
    match s.firstKey with
    | some k => (s.setV x (BitVec.ofNat 8 k)).advance
    | none => s
  | .ldDt x => (s.setDt (s.getV x)).advance
  | .ldSt x => (s.setSt (s.getV x)).advance
  | .addI x => (s.setI (s.i + (s.getV x).setWidth 16)).advance
  | .ldF x => (s.setI (glyphAddress (s.getV x))).advance
  | .ldB x => (s.setMem (s.mem.setBytes s.base (bcdDigits (s.getV x)))).advance
  | .ldMemStore x => (s.setMem (s.mem.setBytes s.base (s.getVs x))).advance
  | .ldMemLoad x => (s.setVs 0 (s.bytesAtI (x.val + 1))).advance

/-- FX0A completes with a key in its register, or changes nothing (R253). -/
theorem effectOf_ldVxK_cases (x : Reg) (s : State) :
    (∃ k, s.firstKey = some k ∧ effectOf (.ldVxK x) s = (s.setV x (BitVec.ofNat 8 k)).advance) ∨
    (s.firstKey = none ∧ effectOf (.ldVxK x) s = s) := by
  cases h : s.firstKey with
  | some k => exact .inl ⟨k, rfl, by simp only [effectOf, h]⟩
  | none => exact .inr ⟨rfl, by simp only [effectOf, h]⟩

/-! ### The shared operations, by whether they fault -/

/-- A conditional skip is a jump (R123). -/
theorem State.skipIf_eq_jump (s : State) (c : Bool) : s.skipIf c = s.jump (s.pc + if c then 4 else 2) := by
  cases c <;> rfl

/-- A read of bytes through I that faults, or gives the bytes there (R275). -/
theorem State.readBytes_base (s : State) (n : Nat) :
    s.readBytes s.base n =
      if 1 ≤ n ∧ 4096 ≤ s.i.toNat + n - 1 then .error (.memoryFault (max s.i.toNat 4096))
      else .ok (s.bytesAtI n) := by
  rw [State.readBytes_eq, State.base]
  by_cases h : 1 ≤ n ∧ 4096 ≤ s.i.toNat + n - 1
  · rw [if_pos h, if_neg (by omega)]
  · rw [if_neg h, if_pos (by omega)]; rfl

/-- A write of n + 1 bytes through I that faults, or is made (R272, R275). -/
theorem State.writeBytes_base (s : State) {bs : List Byte} {n : Nat} (len : bs.length = n + 1) :
    s.writeBytes s.base bs =
      if 4096 ≤ s.i.toNat + n then .error (.memoryFault (max s.i.toNat 4096))
      else .ok (s.setMem (s.mem.setBytes s.base bs)) := by
  rw [State.writeBytes_eq, State.base, len]
  by_cases h : 4096 ≤ s.i.toNat + n
  · rw [if_pos h, if_neg (by omega)]
  · rw [if_neg h, if_pos (by omega)]

/-! ### `exec` is `faultOf`, then `effectOf` -/

/-- What an instruction answers in a state: a fault of R271's table entered, or its effect. -/
def answer (i : Instr) (s : State) : State := (faultOf i s).elim (effectOf i s) s.takeFault

theorem answer_of_fault {i : Instr} {s : State} {f : Fault} (h : faultOf i s = some f) :
    answer i s = s.takeFault f := by rw [answer, h]; rfl

theorem answer_of_noFault {i : Instr} {s : State} (h : faultOf i s = none) : answer i s = effectOf i s := by
  rw [answer, h]; rfl

theorem execRet_eq (s : State) : execRet s = .next (answer .ret s) := by
  rw [execRet]
  by_cases h : s.sp = 0
  · have fault : faultOf .ret s = some (.stackUnderflow 0) := if_pos h
    rw [State.pop_empty (congrArg Fin.val h), answer_of_fault fault]; rfl
  · have noFault : faultOf .ret s = none := if_neg h
    have pred : (⟨s.sp.val - 1, Nat.lt_succ_of_lt s.sp_pred_lt⟩ : Fin 17) = s.sp - 1 :=
      Fin.ext (Fin.val_sub_one_of_ne_zero h).symm
    rw [State.pop_ok (fun e => h (Fin.ext e)) s.sp_pred_lt, answer_of_noFault noFault, pred]; rfl

theorem execCall_eq (nnn : Word) (s : State) : execCall nnn s = .next (answer (.call nnn) s) := by
  rw [execCall]
  by_cases h : s.sp = 16
  · have fault : faultOf (.call nnn) s = some (.stackOverflow 16) := if_pos h
    rw [State.push_full _ (congrArg Fin.val h), answer_of_fault fault]; rfl
  · have noFault : faultOf (.call nnn) s = none := if_neg h
    have lt : s.sp < Fin.last 16 := Fin.lt_last_iff_ne_last.2 h
    have succ : (⟨s.sp.val + 1, Nat.succ_lt_succ lt⟩ : Fin 17) = s.sp + 1 :=
      Fin.ext (Fin.val_add_one_of_lt lt).symm
    have stack : (effectOf (.call nnn) s).stack = s.stack.set s.sp.val (s.pc + 2) lt :=
      Vector.ext fun j hj => by simp [effectOf, Vector.getElem_setIfInBounds, Vector.getElem_set]
    rw [State.push_ok _ lt, answer_of_noFault noFault, succ, ← stack]; rfl

theorem execDrw_eq (x y : Reg) (n : Fin 16) (s : State) : execDrw x y n s = .next (answer (.drw x y n) s) := by
  rw [execDrw, State.readBytes_base]
  by_cases h : 1 ≤ n.val ∧ 4096 ≤ s.i.toNat + n.val - 1
  · have fault : faultOf (.drw x y n) s = some (.memoryFault (max s.i.toNat 4096)) := if_pos h
    rw [if_pos h, answer_of_fault fault]; rfl
  · have noFault : faultOf (.drw x y n) s = none := if_neg h
    rw [if_neg h, answer_of_noFault noFault]; rfl

theorem execSkp_eq (x : Reg) (s : State) : execSkp x s = .next (answer (.skp x) s) := by
  rw [execSkp]
  by_cases h : 16 ≤ (s.getV x).toNat
  · have fault : faultOf (.skp x) s = some (.keyIndexFault (s.getV x)) := if_pos h
    rw [State.keyAt_fault h, answer_of_fault fault]; rfl
  · have noFault : faultOf (.skp x) s = none := if_neg h
    rw [State.keyAt_ok (by omega), answer_of_noFault noFault]; exact congrArg _ (s.skipIf_eq_jump _)

theorem execSknp_eq (x : Reg) (s : State) : execSknp x s = .next (answer (.sknp x) s) := by
  rw [execSknp]
  by_cases h : 16 ≤ (s.getV x).toNat
  · have fault : faultOf (.sknp x) s = some (.keyIndexFault (s.getV x)) := if_pos h
    rw [State.keyAt_fault h, answer_of_fault fault]; rfl
  · have noFault : faultOf (.sknp x) s = none := if_neg h
    rw [State.keyAt_ok (by omega), answer_of_noFault noFault]; exact congrArg _ (s.skipIf_eq_jump _)

theorem execLdVxK_eq (x : Reg) (s : State) : execLdVxK x s = .next (answer (.ldVxK x) s) := by
  have noFault : faultOf (.ldVxK x) s = none := rfl
  obtain ⟨k, h, e⟩ | ⟨h, e⟩ := effectOf_ldVxK_cases x s <;> rw [execLdVxK, h, answer_of_noFault noFault, e]

theorem execLdB_eq (x : Reg) (s : State) : execLdB x s = .next (answer (.ldB x) s) := by
  rw [execLdB, State.writeBytes_base s (bcdDigits_length _)]
  by_cases h : 4096 ≤ s.i.toNat + 2
  · have fault : faultOf (.ldB x) s = some (.memoryFault (max s.i.toNat 4096)) := if_pos h
    rw [if_pos h, answer_of_fault fault]; rfl
  · have noFault : faultOf (.ldB x) s = none := if_neg h
    rw [if_neg h, answer_of_noFault noFault]; rfl

theorem execLdMemStore_eq (x : Reg) (s : State) : execLdMemStore x s = .next (answer (.ldMemStore x) s) := by
  rw [execLdMemStore, State.writeBytes_base s (s.getVs_length x)]
  by_cases h : 4096 ≤ s.i.toNat + x.val
  · have fault : faultOf (.ldMemStore x) s = some (.memoryFault (max s.i.toNat 4096)) := if_pos h
    rw [if_pos h, answer_of_fault fault]; rfl
  · have noFault : faultOf (.ldMemStore x) s = none := if_neg h
    rw [if_neg h, answer_of_noFault noFault]; rfl

theorem execLdMemLoad_eq (x : Reg) (s : State) : execLdMemLoad x s = .next (answer (.ldMemLoad x) s) := by
  rw [execLdMemLoad, State.readBytes_base]
  by_cases h : 4096 ≤ s.i.toNat + x.val
  · have fault : faultOf (.ldMemLoad x) s = some (.memoryFault (max s.i.toNat 4096)) := if_pos h
    rw [if_pos (by omega), answer_of_fault fault]; rfl
  · have noFault : faultOf (.ldMemLoad x) s = none := if_neg h
    rw [if_neg (by omega), answer_of_noFault noFault]; rfl

/-- Every instruction in every state enters the fault R271's table gives it, or else completes with its effect. -/
theorem exec_eq (i : Instr) (s : State) : exec i s = .next (answer i s) := by
  cases i with
  | ret => exact execRet_eq s
  | call nnn => exact execCall_eq nnn s
  | drw x y n => exact execDrw_eq x y n s
  | skp x => exact execSkp_eq x s
  | sknp x => exact execSknp_eq x s
  | ldVxK x => exact execLdVxK_eq x s
  | ldB x => exact execLdB_eq x s
  | ldMemStore x => exact execLdMemStore_eq x s
  | ldMemLoad x => exact execLdMemLoad_eq x s
  | seImm x nn => exact congrArg _ (s.skipIf_eq_jump _)
  | sneImm x nn => exact congrArg _ (s.skipIf_eq_jump _)
  | seReg x y => exact congrArg _ (s.skipIf_eq_jump _)
  | sneReg x y => exact congrArg _ (s.skipIf_eq_jump _)
  | _ => rfl

theorem exec_eq_next {i : Instr} {s t : State} : exec i s = .next t ↔ answer i s = t := by
  rw [exec_eq, Host.Outcome.next.injEq]

/-- Everything an instruction can do. -/
theorem exec_cases {i : Instr} {s t : State} (h : exec i s = .next t) :
    (∃ f, faultOf i s = some f ∧ t = s.takeFault f) ∨ (faultOf i s = none ∧ t = effectOf i s) := by
  rw [exec_eq_next] at h
  subst h
  cases e : faultOf i s with
  | some f => exact .inl ⟨f, rfl, answer_of_fault e⟩
  | none => exact .inr ⟨rfl, answer_of_noFault e⟩

/-- What holds of s with any fault entered, and of the effect, holds after the instruction. -/
theorem exec_induction {i : Instr} {s t : State} {P : State → Prop} (h : exec i s = .next t)
    (fault : ∀ f, P (s.takeFault f)) (effect : P (effectOf i s)) : P t := by
  obtain ⟨f, -, rfl⟩ | ⟨-, rfl⟩ := exec_cases h
  · exact fault f
  · exact effect

/-- An instruction that completes in a running state has raised no fault. -/
theorem exec_running {i : Instr} {s t : State} (h : exec i s = .next t) (run : t.status = .running) :
    faultOf i s = none ∧ t = effectOf i s := by
  obtain ⟨f, -, rfl⟩ | done := exec_cases h
  · cases run
  · exact done

end Sys2Proof.Machine

/-! PROOF. What every instruction leaves alone, the invariant of the machine, and reset (`10_state.md` R20, R29 to R37). -/

namespace Sys2Proof.Machine

/-! ### What no instruction touches -/

/-- No instruction changes the keys, STEPCNT, STATUS, an output or the count of key snapshots, but by a fault. -/
theorem effectOf_frame (i : Instr) (s : State) :
    effectOf i s =
      { effectOf i s with
        keys := s.keys, stepCnt := s.stepCnt, status := s.status, fbOut := s.fbOut, soundOn := s.soundOn,
        diag := s.diag, keyDraws := s.keyDraws } := by
  cases i with
  | ldVxK x =>
    obtain ⟨k, -, e⟩ | ⟨-, e⟩ := effectOf_ldVxK_cases x s
    · rw [e]; rfl
    · rw [e]
  | ldMemLoad x => rw [effectOf, (s.setVs_spec _ _).1]; rfl
  | _ => rfl

@[simp] theorem effectOf_stepCnt (i : Instr) (s : State) : (effectOf i s).stepCnt = s.stepCnt := by
  rw [effectOf_frame]

@[simp] theorem effectOf_status (i : Instr) (s : State) : (effectOf i s).status = s.status := by
  rw [effectOf_frame]

/-! ### The invariant -/

theorem State.inv_iff {p : Nat} {s : State} :
    s.Inv p = true ↔ s.mem.wf = true ∧ s.stepCnt < p ∧ s.status.legal = true := by
  simp only [State.Inv, Bool.and_eq_true, decide_eq_true_eq, and_assoc]

/-- Memory stays in its canonical form: the two instructions that write it do so only where every byte fits. -/
theorem effectOf_mem_wf {i : Instr} {s : State} (wf : s.mem.wf = true) (noFault : faultOf i s = none) :
    (effectOf i s).mem.wf = true := by
  cases i with
  | ldB x =>
    have fits : ¬4096 ≤ s.i.toNat + 2 := fun h => by simp [faultOf, h] at noFault
    exact Memory.wf_setBytes wf (by rw [bcdDigits_length, State.base]; omega)
  | ldMemStore x =>
    have fits : ¬4096 ≤ s.i.toNat + x.val := fun h => by simp [faultOf, h] at noFault
    exact Memory.wf_setBytes wf (by rw [State.getVs_length, State.base]; omega)
  | ldVxK x => obtain ⟨k, -, e⟩ | ⟨-, e⟩ := effectOf_ldVxK_cases x s <;> (rw [e]; exact wf)
  | ldMemLoad x => simpa [effectOf] using wf
  | _ => exact wf

/-- The first address past memory of an access through PC or I is one R270 allows. -/
theorem memoryFault_legal (a : Word) : (Fault.memoryFault (max a.toNat 4096)).legal = true := by
  have := a.isLt
  simp only [Fault.legal, decide_eq_true_eq]
  omega

theorem fetch_fault_legal {s : State} {f : Fault} (h : s.fetch = .error f) : f.legal = true := by
  rw [State.fetch_eq] at h
  split at h
  · cases h
  · cases h; exact memoryFault_legal s.pc

/-- Every fault of R271's table has info of its range (R270). -/
theorem faultOf_legal {i : Instr} {s : State} {f : Fault} (h : faultOf i s = some f) : f.legal = true := by
  have guarded {c : Prop} [Decidable c] {g : Fault} (e : (if c then some g else none) = some f)
      (legal : c → g.legal = true) : f.legal = true := by
    obtain ⟨hc, eq⟩ := Option.ite_none_right_eq_some.1 e
    exact Option.some.inj eq ▸ legal hc
  cases i with
  | ret => exact guarded h fun _ => rfl
  | call nnn => exact guarded h fun _ => rfl
  | skp x => exact guarded h fun le => decide_eq_true le
  | sknp x => exact guarded h fun le => decide_eq_true le
  | drw x y n => exact guarded h fun _ => memoryFault_legal s.i
  | ldB x => exact guarded h fun _ => memoryFault_legal s.i
  | ldMemStore x => exact guarded h fun _ => memoryFault_legal s.i
  | ldMemLoad x => exact guarded h fun _ => memoryFault_legal s.i
  | _ => cases h

/-- Entering a fault that R270 allows keeps the invariant. -/
theorem State.inv_takeFault {p : Nat} {s : State} {f : Fault} (h : s.Inv p = true) (legal : f.legal = true) :
    (s.takeFault f).Inv p = true := by
  obtain ⟨wf, lt, -⟩ := State.inv_iff.1 h
  exact State.inv_iff.2 ⟨wf, lt, legal⟩

/-- Counting keeps STEPCNT below a positive period, and so the invariant (R278). -/
theorem State.inv_afterInstr {p : Nat} {s : State} (k : Keys) (pos : 0 < p) (h : s.Inv p = true) :
    (s.afterInstr p k).Inv p = true := by
  obtain ⟨wf, lt, legal⟩ := State.inv_iff.1 h
  refine State.inv_iff.2 ⟨by rwa [State.afterInstr_mem], ?_, by rwa [State.afterInstr_status]⟩
  cases run : s.status with
  | faulted f a => rwa [State.afterInstr_faulted p k run]
  | running =>
    rw [State.afterInstr_running p k run]
    by_cases due : s.stepCnt + 1 = p
    · rw [State.countStep_due k due]; exact pos
    · rw [State.countStep_notDue k due]; exact Nat.lt_of_le_of_ne lt due

/-- Every instruction keeps the invariant. -/
theorem exec_keeps_inv {p : Nat} {i : Instr} {s t : State} (h : s.Inv p = true) (e : exec i s = .next t) :
    t.Inv p = true := by
  obtain ⟨f, fault, rfl⟩ | ⟨noFault, rfl⟩ := exec_cases e
  · exact State.inv_takeFault h (faultOf_legal fault)
  · obtain ⟨wf, lt, legal⟩ := State.inv_iff.1 h
    exact State.inv_iff.2 ⟨effectOf_mem_wf wf noFault, by rwa [effectOf_stepCnt], by rwa [effectOf_status]⟩

/-- An unrecognized word keeps the invariant too: it only emits a diagnostic and advances PC (R125). -/
theorem execDecoded_keeps_inv {p : Nat} {d : Decoded} {s t : State} (h : s.Inv p = true)
    (e : execDecoded d s = .next t) : t.Inv p = true := by
  cases d with
  | instr i => exact exec_keeps_inv h e
  | unrecognized w => cases e; exact h

/-- A counted outcome is a next state only of a next state. -/
theorem countOutcome_eq_next {p : Nat} {k : Keys} {o : Host.Outcome State Fault Refusal} {t : State}
    (h : countOutcome p k o = .next t) : ∃ u, o = .next u ∧ t = u.afterInstr p k := by
  cases o <;> cases h
  exact ⟨_, rfl, rfl⟩

/-- A step keeps the invariant, for every positive period and every key snapshot. -/
theorem stepWith_keeps_inv {p : Nat} {k : Keys} {s t : State} (pos : 0 < p) (h : s.Inv p = true)
    (e : stepWith p k s = .next t) : t.Inv p = true := by
  obtain ⟨f, a, -, step⟩ | ⟨f, -, fetch, step⟩ | ⟨w, -, -, step⟩ := stepWith_cases p k s <;> rw [step] at e
  · cases e; exact h
  · cases e; exact State.inv_takeFault h (fetch_fault_legal fetch)
  · obtain ⟨u, run, rfl⟩ := countOutcome_eq_next e
    exact State.inv_afterInstr k pos (execDecoded_keeps_inv h run)

/-- The open tick period is positive (R7). -/
theorem cyclesPerTick_pos : 0 < Config.cyclesPerTick := Nat.succ_pos _

/-- Settles O16: each of a step's three outcomes keeps the invariant. -/
theorem stepKeepsInvariant : Obligations.StepKeepsInvariant := by
  unfold Obligations.StepKeepsInvariant
  exact fun _ _ h e => stepWith_keeps_inv cyclesPerTick_pos h e

/-! ### Reset -/

/-- Settles O15: memory lists no cell, STEPCNT is 0, below the positive period, and nothing has faulted. -/
theorem resetMeetsInvariant : Obligations.ResetMeetsInvariant := by
  unfold Obligations.ResetMeetsInvariant
  exact State.inv_iff.2 ⟨State.reset_mem_wf, cyclesPerTick_pos, rfl⟩

/-- A byte of memory at reset: the font's below 0x050, and 0 above (R37, R68). -/
theorem State.reset_memRead {a : Nat} (lt : a < 4096) :
    State.reset.memRead a = .ok (if a < 80 then Config.font a else 0) := by
  rw [State.memRead_ok lt, State.reset_mem_get]

theorem State.reset_getV (r : Reg) : State.reset.getV r = 0 := Vector.getElem_replicate r.isLt

/-- Settles O14: the bytes of memory by their address, every other field by its value in `State.reset`. -/
theorem resetState : Obligations.ResetState := by
  unfold Obligations.ResetState
  have font : ∀ a, a < 80 → State.reset.memRead a = .ok (Config.font a) := fun a lt => by
    rw [State.reset_memRead (by omega), if_pos lt]
  have zeros : ∀ a, 80 ≤ a → a < 4096 → State.reset.memRead a = .ok 0 := fun a le lt => by
    rw [State.reset_memRead lt, if_neg (by omega)]
  have dark : ∀ x y, pixel State.reset.disp x y = false := pixel_clearDisplay
  have unpresented : ∀ k, State.reset.fbOutBit k = false := fun k => pixel_clearDisplay _ _
  exact ⟨font, zeros, State.reset_getV, rfl, rfl, rfl, fun k => Vector.getElem_replicate k.isLt, rfl, rfl,
    fun x y _ _ => dark x y, rfl, rfl, rfl, rfl, fun k _ => unpresented k, rfl⟩

end Sys2Proof.Machine

/-! PROOF. Which parts of the state an instruction writes and reads: the stack, the registers, the flag, and the state
no instruction reads (`10_state.md` R22 to R24, R29, R30, R35). -/

namespace Sys2Proof.Machine

/-! ### The stack -/

/-- No instruction but a call and a return has an effect on SP and the stack (R29). -/
theorem effectOf_stack_frame {i : Instr} (s : State) (notRet : i ≠ .ret) (notCall : ∀ nnn, i ≠ .call nnn) :
    (effectOf i s).sp = s.sp ∧ (effectOf i s).stack = s.stack := by
  cases i with
  | ret => exact absurd rfl notRet
  | call nnn => exact absurd rfl (notCall nnn)
  | ldVxK x => obtain ⟨k, -, e⟩ | ⟨-, e⟩ := effectOf_ldVxK_cases x s <;> (rw [e]; exact ⟨rfl, rfl⟩)
  | ldMemLoad x => exact ⟨State.setVs_sp _ _ _, State.setVs_stack _ _ _⟩
  | _ => exact ⟨rfl, rfl⟩

/-- A call writes no entry but the one at SP (R142). -/
theorem effectOf_call_stack_get {nnn : Word} {s : State} {k : Fin 16} (ne : k.val ≠ s.sp.val) :
    (effectOf (.call nnn) s).stack.get k = s.stack.get k := Vector.getElem_setIfInBounds_ne k.isLt ne.symm

/-- Settles O23: a fault keeps the stack, and so does every effect but a call's, which writes the entry at SP alone. -/
theorem onlyCallAndRetTouchTheStack : Obligations.OnlyCallAndRetTouchTheStack := by
  unfold Obligations.OnlyCallAndRetTouchTheStack
  refine ⟨fun i s t e notRet notCall => ?_, fun s t e => ?_, fun nnn s t e k ne => ?_⟩
  · exact exec_induction (P := fun t => t.sp = s.sp ∧ t.stack = s.stack) e (fun _ => ⟨rfl, rfl⟩)
      (effectOf_stack_frame s notRet notCall)
  · exact exec_induction (P := fun t => t.stack = s.stack) e (fun _ => rfl) rfl
  · exact exec_induction (P := fun t => t.stack.get k = s.stack.get k) e (fun _ => rfl) (effectOf_call_stack_get ne)

/-! ### The registers written -/

/-- Registers after a sprite is drawn: VF alone is written (R232). -/
@[simp] theorem State.getV_drawSprite (s : State) (x y r : Reg) (rows : List Byte) :
    (s.drawSprite x y rows).getV r =
      if r = vf then flagOf (drawRows (s.getV x).toNat (s.getV y).toNat rows (s.disp, false)).2 else s.getV r := by
  simp [State.drawSprite]

@[simp] theorem State.bytesAtI_length (s : State) (n : Nat) : (s.bytesAtI n).length = n := by simp [State.bytesAtI]

/-- Registers after FX65: V0 to Vx hold the bytes read, the others are as before (R205). -/
theorem getV_effectOf_ldMemLoad (x r : Reg) (s : State) :
    (effectOf (.ldMemLoad x) s).getV r = if r.val ≤ x.val then s.mem.get (s.base + r.val) else s.getV r := by
  rw [effectOf, State.getV_advance, (s.setVs_spec _ _).2, if_pos (Nat.zero_le _), Nat.sub_zero]
  split
  · next le => simp [State.bytesAtI, List.getD, Nat.lt_succ_of_le le]
  · next gt => rw [List.getD_eq_default _ _ (by rw [State.bytesAtI_length]; omega)]

/-- An effect writes no register outside the first list of R23. -/
theorem getV_effectOf_of_not_writesReg {i : Instr} {r : Reg} (s : State) (h : ¬writesReg i r) :
    (effectOf i s).getV r = s.getV r := by
  cases i with
  | ldImm x nn | addImm x nn | ldReg x y | orReg x y | andReg x y | xorReg x y | ldVxDt x | rnd x nn =>
    exact (State.getV_setV _ x r _).trans (if_neg h)
  | addReg x y | sub x y | shr x | subn x y | shl x =>
    obtain ⟨notX, notF⟩ := not_or.1 h
    exact (State.getV_setFlagThen s _ _ x r).trans ((if_neg notX).trans (if_neg notF))
  | drw x y n => exact (State.getV_drawSprite s x y r _).trans (if_neg h)
  | ldMemLoad x => exact (getV_effectOf_ldMemLoad x r s).trans (if_neg h)
  | ldVxK x =>
    obtain ⟨k, -, e⟩ | ⟨-, e⟩ := effectOf_ldVxK_cases x s <;> rw [e]
    exact (State.getV_setV s x r _).trans (if_neg h)
  | _ => rfl

/-- Settles O26: a fault writes no register, and an effect only those of R23's first list. -/
theorem onlyListedRegistersAreWritten : Obligations.OnlyListedRegistersAreWritten := by
  unfold Obligations.OnlyListedRegistersAreWritten
  intro i s t r e h
  exact exec_induction (P := fun t => t.getV r = s.getV r) e (fun _ => rfl) (getV_effectOf_of_not_writesReg s h)

/-! ### The registers read -/

/-- t is s but, at most, for register r. -/
def SameBut (r : Reg) (s t : State) : Prop := t = { s with v := t.v } ∧ ∀ q, q ≠ r → t.getV q = s.getV q

section
variable {r : Reg} {s t : State}

/-- A state with another value in one register. -/
theorem SameBut.of_setV {b : Byte} (e : t = s.setV r b) : SameBut r s t := by
  subst e
  exact ⟨rfl, fun q ne => (s.getV_setV r q b).trans (if_neg ne)⟩

/-- The same register written with the same byte on both sides. -/
theorem SameBut.setV (h : SameBut r s t) (x : Reg) (c : Byte) : SameBut r (s.setV x c) (t.setV x c) := by
  obtain ⟨rest, regs⟩ := h
  refine ⟨congrArg (State.setV · x c) rest, fun q ne => ?_⟩
  rw [State.getV_setV, State.getV_setV, regs q ne]

theorem SameBut.setFlagThen (h : SameBut r s t) (g : Byte) (x : Reg) (c : Byte) :
    SameBut r (s.setFlagThen g x c) (t.setFlagThen g x c) := (h.setV vf g).setV x c

theorem SameBut.advance (h : SameBut r s t) : SameBut r s.advance t.advance :=
  ⟨congrArg State.advance h.1, h.2⟩

end

/-- A register other than the one written reads as before. -/
theorem State.getV_setV_of_ne (s : State) {r x : Reg} (b : Byte) (ne : r ≠ x) : (s.setV r b).getV x = s.getV x :=
  (s.getV_setV r x b).trans (if_neg ne.symm)

/-- V0 to Vx do not include a register above x (R204). -/
theorem State.getVs_setV_of_lt (s : State) {r x : Reg} (b : Byte) (lt : x.val < r.val) :
    (s.setV r b).getVs x = s.getVs x := by
  simp only [State.getVs, State.setV_v, Vector.toList_set]
  exact List.take_set_of_le lt

/-- Which fault an instruction raises depends on no register outside the second list of R23. -/
theorem faultOf_setV_of_not_readsReg {i : Instr} {r : Reg} (s : State) (b : Byte) (h : ¬readsReg i r) :
    faultOf i (s.setV r b) = faultOf i s := by
  cases i with
  | skp x | sknp x => simp only [faultOf, s.getV_setV_of_ne b h]
  | _ => rfl

/-- An effect carries a change of a register outside the second list of R23 to that register at most. -/
theorem effectOf_setV_of_not_readsReg {i : Instr} {r : Reg} (s : State) (b : Byte) (h : ¬readsReg i r) :
    SameBut r (effectOf i s) (effectOf i (s.setV r b)) := by
  have start : SameBut r s (s.setV r b) := .of_setV rfl
  cases i with
  | cls | ret | jp nnn | call nnn | ldI nnn => exact .of_setV rfl
  | ldImm x nn | ldVxDt x => exact (start.setV x _).advance
  | rnd x nn => exact ((SameBut.of_setV (s := s.consumeRand) rfl).setV x _).advance
  | ldVxK x =>
    have same : (s.setV r b).firstKey = s.firstKey := rfl
    simp only [effectOf, same]
    cases s.firstKey with
    | some k => exact (start.setV x _).advance
    | none => exact start
  | ldMemLoad x =>
    refine ⟨?_, fun q ne => ?_⟩
    · simp [effectOf, State.ext_iff, State.bytesAtI]
    · rw [getV_effectOf_ldMemLoad, getV_effectOf_ldMemLoad, s.getV_setV_of_ne b ne.symm]; rfl
  | seImm x nn | sneImm x nn | skp x | sknp x | ldDt x | ldSt x | addI x | ldF x | ldB x =>
    simp only [effectOf, s.getV_setV_of_ne b h]
    exact .of_setV rfl
  | seReg x y | sneReg x y =>
    simp only [effectOf, s.getV_setV_of_ne b (not_or.1 h).1, s.getV_setV_of_ne b (not_or.1 h).2]
    exact .of_setV rfl
  | jpV0 nnn =>
    simp only [effectOf, s.getV_setV_of_ne (x := 0) b h]
    exact .of_setV rfl
  | ldMemStore x =>
    simp only [effectOf, s.getVs_setV_of_lt b (not_le.1 h)]
    exact .of_setV rfl
  | addImm x nn | ldReg _ x =>
    simp only [effectOf, s.getV_setV_of_ne b h]
    exact (start.setV _ _).advance
  | orReg x y | andReg x y | xorReg x y =>
    simp only [effectOf, s.getV_setV_of_ne b (not_or.1 h).1, s.getV_setV_of_ne b (not_or.1 h).2]
    exact (start.setV _ _).advance
  | shr x | shl x =>
    simp only [effectOf, s.getV_setV_of_ne b h]
    exact (start.setFlagThen _ _ _).advance
  | addReg x y | sub x y | subn x y =>
    simp only [effectOf, s.getV_setV_of_ne b (not_or.1 h).1, s.getV_setV_of_ne b (not_or.1 h).2]
    exact (start.setFlagThen _ _ _).advance
  | drw x y n =>
    simp only [effectOf, State.drawSprite, s.getV_setV_of_ne b (not_or.1 h).1, s.getV_setV_of_ne b (not_or.1 h).2]
    exact ((SameBut.of_setV rfl).setV vf _).advance

/-- Settles O27: the register changes neither the fault nor the effect, but for itself. -/
theorem onlyListedRegistersAreRead : Obligations.OnlyListedRegistersAreRead := by
  unfold Obligations.OnlyListedRegistersAreRead
  intro i s t u r b h e e'
  rw [exec_eq_next] at e'
  subst e'
  obtain ⟨f, fault, rfl⟩ | ⟨noFault, rfl⟩ := exec_cases e
  · rw [answer_of_fault (by rwa [faultOf_setV_of_not_readsReg s b h])]
    exact SameBut.of_setV rfl
  · rw [answer_of_noFault (by rwa [faultOf_setV_of_not_readsReg s b h])]
    exact effectOf_setV_of_not_readsReg s b h

/-! ### The flag -/

theorem flagOf_zero_or_one (c : Bool) : flagOf c = 0 ∨ flagOf c = 1 := by cases c <;> decide

/-- A byte of at most 1 is 0 or 1. -/
theorem Byte.zero_or_one_of_le {b : Byte} (h : b.toNat ≤ 1) : b = 0 ∨ b = 1 := by
  obtain z | o := Nat.le_one_iff_eq_zero_or_eq_one.1 h
  · exact .inl (BitVec.eq_of_toNat_eq z)
  · exact .inr (BitVec.eq_of_toNat_eq o)

/-- VF after a flag and a result are written, where the destination is not VF (R127). -/
theorem State.getV_vf_setFlagThen {s : State} {g b : Byte} {x : Reg} (h : x ≠ 15) :
    (s.setFlagThen g x b).advance.getV 15 = g := by
  rw [State.getV_advance, State.getV_setFlagThen, if_neg h.symm]; exact if_pos rfl

/-- The effect of a flag instruction leaves VF 0 or 1 (R24, R182, R232). -/
theorem effectOf_flag {i : Instr} (s : State) (h : setsFlag i) :
    (effectOf i s).getV 15 = 0 ∨ (effectOf i s).getV 15 = 1 := by
  cases i with
  | addReg x y | sub x y | subn x y => rw [effectOf, State.getV_vf_setFlagThen h]; exact flagOf_zero_or_one _
  | shr x => rw [effectOf, State.getV_vf_setFlagThen h]; exact Byte.zero_or_one_of_le (lowBitFlag_le _)
  | shl x => rw [effectOf, State.getV_vf_setFlagThen h]; exact Byte.zero_or_one_of_le (highBitFlag_le _)
  | drw x y n =>
    have vfFlag := (s.getV_drawSprite x y 15 (s.bytesAtI n.val)).trans (if_pos rfl)
    rw [effectOf, State.getV_advance, vfFlag]
    exact flagOf_zero_or_one _
  | _ => exact h.elim

/-- Settles O28: an instruction that completes has its effect, whose flag is 0 or 1. -/
theorem flagIsZeroOrOne : Obligations.FlagIsZeroOrOne := by
  unfold Obligations.FlagIsZeroOrOne
  intro i s t _ sets e run
  obtain ⟨-, rfl⟩ := exec_running e run
  exact effectOf_flag s sets

/-! ### State that no instruction reads -/

theorem faultOf_withHidden (i : Instr) (s : State) (n : Nat) (fb : Display) (on : Bool) (d : List DiagEvent) :
    faultOf i (s.withHidden n fb on d) = faultOf i s := by cases i <;> rfl

/-- Writing registers and changing what no instruction reads can be done in either order. -/
theorem State.setVs_withHidden (s : State) (n : Nat) (fb : Display) (on : Bool) (d : List DiagEvent) (k : Nat)
    (bs : List Byte) : (s.withHidden n fb on d).setVs k bs = (s.setVs k bs).withHidden n fb on d := by
  induction bs generalizing s k with
  | nil => rfl
  | cons b bs ih =>
    rw [State.setVs, State.setVs, ← ih]
    congr 1
    split <;> rfl

/-- An effect neither reads nor writes STEPCNT or an output. -/
theorem effectOf_withHidden (i : Instr) (s : State) (n : Nat) (fb : Display) (on : Bool) (d : List DiagEvent) :
    effectOf i (s.withHidden n fb on d) = (effectOf i s).withHidden n fb on d := by
  cases i with
  | ldMemLoad x => exact congrArg State.advance (s.setVs_withHidden n fb on d 0 (s.bytesAtI (x.val + 1)))
  | ldVxK x =>
    have same : (s.withHidden n fb on d).firstKey = s.firstKey := rfl
    simp only [effectOf, same]
    cases s.firstKey <;> rfl
  | _ => rfl

/-- Settles O29: neither the fault an instruction raises nor its effect depends on the hidden state. -/
theorem hiddenStateIsNeverRead : Obligations.HiddenStateIsNeverRead := by
  unfold Obligations.HiddenStateIsNeverRead
  intro i s t n fb on d e
  rw [exec_eq_next]
  obtain ⟨f, fault, rfl⟩ | ⟨noFault, rfl⟩ := exec_cases e
  · rw [answer_of_fault (by rwa [faultOf_withHidden])]; rfl
  · rw [answer_of_noFault (by rwa [faultOf_withHidden]), effectOf_withHidden]

end Sys2Proof.Machine

/-! PROOF. The output `awaiting_key`, and the two places a program stands still at: the wait for a key and the jump to
itself (`10_state.md` R35, `45_keys_timers.md` R253, `70_reset_and_hazards.md` R311). -/

namespace Sys2Proof.Machine

/-- The latch is all zero exactly when each of the 16 keys is released (R34). -/
theorem keys_eq_zero_iff {k : Keys} : k = 0 ↔ ∀ j, j < 16 → k.getLsbD j = false := by
  constructor
  · rintro rfl j _
    exact BitVec.getLsbD_zero
  · exact fun released => BitVec.eq_of_getLsbD_eq fun j lt => (released j lt).trans BitVec.getLsbD_zero.symm

/-- What `awaiting_key` says (R35, R36). -/
theorem State.awaitingKey_eq_true {s : State} :
    s.awaitingKey = true ↔
      s.status = .running ∧ (∃ w x, s.fetch = .ok w ∧ decode w = .instr (.ldVxK x)) ∧ s.keys = 0 := by
  unfold State.awaitingKey
  constructor
  · intro h
    split at h
    · next w run fetch =>
      split at h
      · next x dec => exact ⟨run, ⟨w, x, fetch, dec⟩, eq_of_beq h⟩
      · cases h
    · cases h
  · rintro ⟨run, ⟨w, x, fetch, dec⟩, keys⟩
    simp [run, fetch, dec, keys]

/-- With no key pressed FX0A leaves the state as it is (R253). -/
theorem exec_ldVxK_of_no_key {s : State} (x : Reg) (h : s.keys = 0) : exec (.ldVxK x) s = .next s := by
  change execLdVxK x s = .next s
  rw [execLdVxK, State.firstKey_eq_none.2 h]

/-- A jump to where PC is leaves the state as it is (R141). -/
theorem exec_jp_self (s : State) : exec (.jp s.pc) s = .next s := congrArg _ s.jump_pc_self

/-- A step that runs an instruction which leaves the state as it is, only counts. -/
theorem stepWith_of_exec_self {s : State} (p : Nat) (k : Keys) {w : Word} {i : Instr} (run : s.status = .running)
    (fetch : s.fetch = .ok w) (dec : decode w = .instr i) (self : exec i s = .next s) :
    stepWith p k s = .next (s.afterInstr p k) := by
  rw [stepWith_fetched p k run fetch, dec, execDecoded, self, countOutcome]

/-- Counting changes nothing but what ticks change (R276, R278, R279). -/
theorem State.afterInstr_frame (s : State) (p : Nat) (k : Keys) :
    let t := s.afterInstr p k
    t = { s with dt := t.dt, st := t.st, keys := t.keys, stepCnt := t.stepCnt, fbOut := t.fbOut,
                 soundOn := t.soundOn, keyDraws := t.keyDraws } := by
  simp [State.ext_iff]

/-- Settles O60: at a wait or a self-jump the instruction leaves the state as it is, so the step only counts. -/
theorem awaitingKeyHoldsTheProgram : Obligations.AwaitingKeyHoldsTheProgram := by
  unfold Obligations.AwaitingKeyHoldsTheProgram
  refine ⟨fun s => by rw [State.awaitingKey_eq_true, keys_eq_zero_iff], fun p k s h => ?_⟩
  have counts : stepWith p k s = .next (s.afterInstr p k) := by
    obtain wait | ⟨run, jump⟩ := h
    · obtain ⟨run, ⟨w, x, fetch, dec⟩, keys⟩ := State.awaitingKey_eq_true.1 wait
      exact stepWith_of_exec_self p k run fetch dec (exec_ldVxK_of_no_key x keys)
    · obtain ⟨w, fetch, dec⟩ := State.selfJump_eq_true.1 jump
      exact stepWith_of_exec_self p k run fetch dec (exec_jp_self s)
  exact ⟨_, counts, s.afterInstr_frame p k⟩

end Sys2Proof.Machine

/-! PROOF. Memory: single bytes, runs of bytes, what no instruction but FX33 and FX55 changes, and the fetch of stored
bytes (`20_memory.md` R61, R62, R64, R66, R71, R77; `70_reset_and_hazards.md` R301, R302, R306). -/

namespace Sys2Proof.Machine

/-! ### Single bytes -/

/-- A read of an address depends on the byte there alone (R61). -/
theorem State.memRead_congr_get {s t : State} {a : Nat} (h : t.mem.get a = s.mem.get a) :
    t.memRead a = s.memRead a := by simp only [State.memRead, h]

/-- Settles O30: by whether the address is inside memory, and by the read after a write. -/
theorem memReadAndMemWrite : Obligations.MemReadAndMemWrite := by
  unfold Obligations.MemReadAndMemWrite
  refine ⟨fun _ _ => State.memRead_fault, fun _ _ => State.memRead_ok, fun _ _ v => State.memWrite_fault v,
    fun s a v wf lt => ⟨s.setMem (s.mem.set a v), State.memWrite_ok v lt, ?written, fun b ne => ?others, rfl⟩⟩
  case written => exact State.memRead_eq_ok.2 ⟨lt, (Memory.get_set v wf a).trans (if_pos rfl)⟩
  case others => exact State.memRead_congr_get ((Memory.get_set v wf b).trans (if_neg ne))

/-! ### Which instructions change memory -/

/-- No instruction but FX33 and FX55 has an effect on memory (R66). -/
theorem effectOf_mem_frame {i : Instr} (s : State) (notBcd : ∀ x, i ≠ .ldB x) (notStore : ∀ x, i ≠ .ldMemStore x) :
    (effectOf i s).mem = s.mem := by
  cases i with
  | ldB x => exact absurd rfl (notBcd x)
  | ldMemStore x => exact absurd rfl (notStore x)
  | ldVxK x => obtain ⟨k, -, e⟩ | ⟨-, e⟩ := effectOf_ldVxK_cases x s <;> simp [e]
  | ldMemLoad x => exact State.setVs_mem _ _ _
  | _ => rfl

/-- Settles O25: a fault keeps memory, and so does every effect but those of FX33 and FX55. -/
theorem onlyBcdAndStoreChangeMemory : Obligations.OnlyBcdAndStoreChangeMemory := by
  unfold Obligations.OnlyBcdAndStoreChangeMemory
  intro i s t e notBcd notStore
  exact State.memRead_congr
    (exec_induction (P := fun t => t.mem = s.mem) e (fun _ => rfl) (effectOf_mem_frame s notBcd notStore))

/-! ### Runs of bytes -/

section
variable {s : State} {a : Nat} {bs : List Byte}

/-- The bytes of a run that fits in memory, read back from where they were written (R62, R71). -/
theorem State.memRead_setBytes (wf : s.mem.wf = true) (le : a + bs.length ≤ 4096) {k : Nat} (lt : k < bs.length) :
    (s.setMem (s.mem.setBytes a bs)).memRead (a + k) = .ok bs[k] := by
  refine State.memRead_eq_ok.2 ⟨by omega, (Memory.get_setBytes wf le (a + k)).trans ?_⟩
  rw [if_pos (Nat.le_add_right a k), Nat.add_sub_cancel_left, List.getD_eq_getElem _ _ lt]

/-- An address outside a run that fits in memory reads as before the run was written (R62, R71). -/
theorem State.memRead_setBytes_outside (wf : s.mem.wf = true) (le : a + bs.length ≤ 4096) {b : Nat}
    (out : b < a ∨ a + bs.length ≤ b) : (s.setMem (s.mem.setBytes a bs)).memRead b = s.memRead b := by
  refine State.memRead_congr_get ((Memory.get_setBytes wf le b).trans ?_)
  obtain below | above := out
  · exact if_neg (by omega)
  · rw [if_pos (by omega), List.getD_eq_default _ _ (by omega)]

/-- A load that fits writes its bytes (R71). -/
theorem State.load_ok (le : a + bs.length ≤ 4096) : s.load a bs = .ok (s.setMem (s.mem.setBytes a bs)) :=
  if_neg (Nat.not_lt.2 le)

/-- A load past the end of memory fails (R71). -/
theorem State.load_outOfBounds (lt : 4096 < a + bs.length) : s.load a bs = .error .outOfBounds := if_pos lt

end

/-- Settles O31: a load is one run of bytes or fails, and booting is a load at 0x200 after reset. -/
theorem loadCopiesAllOrFails : Obligations.LoadCopiesAllOrFails := by
  unfold Obligations.LoadCopiesAllOrFails
  refine ⟨fun _ _ _ => State.load_outOfBounds, fun s a bs wf le => ?load, fun rom lt => ?bootFails, fun rom le => ?boot⟩
  case load =>
    exact ⟨_, State.load_ok le, fun k lt => State.memRead_setBytes wf le lt,
      fun b out => State.memRead_setBytes_outside wf le out, rfl⟩
  case bootFails => exact State.load_outOfBounds (show 4096 < 0x200 + rom.length by omega)
  case boot =>
    have fits : 0x200 + rom.length ≤ 4096 := by omega
    exact ⟨_, State.load_ok fits, rfl, rfl, fun k lt => State.memRead_setBytes State.reset_mem_wf fits lt⟩

/-! ### The fetch of stored bytes -/

/-- A word's value from its bytes, high byte first (R64). -/
theorem wordOfBytes_toNat (hi lo : Byte) : (wordOfBytes hi lo).toNat = hi.toNat * 256 + lo.toNat := by
  rw [wordOfBytes, BitVec.toNat_append, ← Nat.shiftLeft_add_eq_or_of_lt lo.isLt, Nat.shiftLeft_eq]

/-- Byte k of the registers V0 to Vx is Vk (R204). -/
theorem State.getVs_getElem (s : State) {x k : Reg} (le : k.val ≤ x.val) :
    (s.getVs x)[k.val]'(by rw [s.getVs_length]; omega) = s.getV k := by
  rw [← s.getVs_getD x k le 0, List.getD_eq_getElem]

/-- After FX55 has completed, Vk is read at I + k (R204). -/
theorem memRead_effectOf_ldMemStore {s : State} {x k : Reg} (wf : s.mem.wf = true)
    (noFault : faultOf (.ldMemStore x) s = none) (le : k.val ≤ x.val) :
    (effectOf (.ldMemStore x) s).memRead (s.base + k.val) = .ok (s.getV k) := by
  have fits : ¬4096 ≤ s.i.toNat + x.val := fun h => by simp [faultOf, h] at noFault
  have len := s.getVs_length x
  rw [← s.getVs_getElem le]
  exact State.memRead_setBytes wf (by rw [len, State.base]; omega) (by omega)

/-- Settles O32: the fetch reads V0 and V1 where FX55 has stored them. -/
theorem storedBytesAreFetched : Obligations.StoredBytesAreFetched := by
  unfold Obligations.StoredBytesAreFetched
  intro s t x wf _ le e run pc
  obtain ⟨noFault, rfl⟩ := exec_running e run
  have hi := memRead_effectOf_ldMemStore (k := 0) wf noFault (Nat.zero_le _)
  have lo := memRead_effectOf_ldMemStore (k := 1) wf noFault le
  exact ⟨_, State.fetch_of_bytes (pc ▸ hi) (pc ▸ lo), wordOfBytes_toNat _ _⟩

end Sys2Proof.Machine

/-! PROOF. The encoding (`30_encoding.md`): a word decodes to an instruction exactly when that instruction's row of the
opcode map selects the word and its operands are the word's fields (`decode_eq_instr_iff`). The round trip, the two
directions of the opcode map and totality are read off from it. -/

namespace Sys2Proof

open Machine

/-! ### The fields as numbers (R91) -/

/-- A field is the word under the field's mask, shifted down to the field's lowest bit. -/
theorem slice_toNat_eq_mask_shift (w : Word) {start len : Nat} {mask : Word}
    (ones : mask.toNat >>> start = 2 ^ len - 1) :
    (w.extractLsb' start len).toNat = ((w &&& mask) >>> start).toNat := by
  rw [BitVec.extractLsb'_toNat, BitVec.toNat_ushiftRight, BitVec.toNat_and, Nat.shiftRight_and_distrib, ones,
    Nat.and_two_pow_sub_one_eq_mod]

/-- The address field is the word under its mask (R92). -/
theorem fieldNNN_eq_mask (w : Word) : fieldNNN w = w &&& 0x0FFF#16 := by
  apply BitVec.eq_of_toNat_eq
  have slice : (w.extractLsb' 0 12).toNat = (w &&& 0x0FFF#16).toNat := slice_toNat_eq_mask_shift w (start := 0) rfl
  rw [fieldNNN, BitVec.toNat_setWidth_of_le (by decide), slice]

/-- Settles O3: each field is a slice of the word, and its mask has ones exactly there. -/
theorem fieldsAreBitSlices : Obligations.FieldsAreBitSlices := by
  unfold Obligations.FieldsAreBitSlices
  intro w
  exact ⟨slice_toNat_eq_mask_shift w rfl, slice_toNat_eq_mask_shift w rfl, slice_toNat_eq_mask_shift w rfl,
    slice_toNat_eq_mask_shift w (start := 0) rfl, slice_toNat_eq_mask_shift w (start := 0) rfl, fieldNNN_eq_mask w⟩

theorem fieldOp_toNat (w : Word) : (fieldOp w).toNat = w.toNat / 4096 := by
  have := w.isLt
  rw [fieldOp, BitVec.extractLsb'_toNat, Nat.shiftRight_eq_div_pow]
  omega

theorem fieldN_val (w : Word) : (fieldN w).val = w.toNat % 16 := BitVec.extractLsb'_toNat 0 4 w

theorem fieldNN_toNat (w : Word) : (fieldNN w).toNat = w.toNat % 256 := BitVec.extractLsb'_toNat 0 8 w

/-! ### What the fields say of a mask and match (R96) -/

section
variable {w : Word} {op n : Nat} {nn : Byte}

theorem mask_op_of (hop : (fieldOp w).toNat = op) : w &&& 0xF000#16 = packNNN (BitVec.ofNat 4 op) 0 := by
  rw [mask_op, ← hop, BitVec.ofNat_toNat, BitVec.setWidth_eq]

theorem mask_op_n_of (hop : (fieldOp w).toNat = op) (hn : (fieldN w).val = n) :
    w &&& 0xF00F#16 = packXYN (BitVec.ofNat 4 op) 0 0 (Fin.ofNat 16 n) := by
  rw [mask_op_n, ← hop, ← hn, BitVec.ofNat_toNat, BitVec.setWidth_eq, Fin.ofNat_val_eq_self]

theorem mask_op_nn_of (hop : (fieldOp w).toNat = op) (hnn : fieldNN w = nn) :
    w &&& 0xF0FF#16 = packXNN (BitVec.ofNat 4 op) 0 nn := by
  rw [mask_op_nn, ← hop, hnn, BitVec.ofNat_toNat, BitVec.setWidth_eq]

end

/-! ### The instruction of a row with a word's fields (R91, R96) -/

/-- The instruction of i's row that has the fields of w as its operands. -/
@[simp] def Instr.withFieldsOf (i : Instr) (w : Word) : Instr :=
  match i with
  | .cls => .cls
  | .ret => .ret
  | .jp _ => .jp (fieldNNN w)
  | .call _ => .call (fieldNNN w)
  | .seImm _ _ => .seImm (fieldX w) (fieldNN w)
  | .sneImm _ _ => .sneImm (fieldX w) (fieldNN w)
  | .seReg _ _ => .seReg (fieldX w) (fieldY w)
  | .ldImm _ _ => .ldImm (fieldX w) (fieldNN w)
  | .addImm _ _ => .addImm (fieldX w) (fieldNN w)
  | .ldReg _ _ => .ldReg (fieldX w) (fieldY w)
  | .orReg _ _ => .orReg (fieldX w) (fieldY w)
  | .andReg _ _ => .andReg (fieldX w) (fieldY w)
  | .xorReg _ _ => .xorReg (fieldX w) (fieldY w)
  | .addReg _ _ => .addReg (fieldX w) (fieldY w)
  | .sub _ _ => .sub (fieldX w) (fieldY w)
  | .shr _ => .shr (fieldX w)
  | .subn _ _ => .subn (fieldX w) (fieldY w)
  | .shl _ => .shl (fieldX w)
  | .sneReg _ _ => .sneReg (fieldX w) (fieldY w)
  | .ldI _ => .ldI (fieldNNN w)
  | .jpV0 _ => .jpV0 (fieldNNN w)
  | .rnd _ _ => .rnd (fieldX w) (fieldNN w)
  | .drw _ _ _ => .drw (fieldX w) (fieldY w) (fieldN w)
  | .skp _ => .skp (fieldX w)
  | .sknp _ => .sknp (fieldX w)
  | .ldVxDt _ => .ldVxDt (fieldX w)
  | .ldVxK _ => .ldVxK (fieldX w)
  | .ldDt _ => .ldDt (fieldX w)
  | .ldSt _ => .ldSt (fieldX w)
  | .addI _ => .addI (fieldX w)
  | .ldF _ => .ldF (fieldX w)
  | .ldB _ => .ldB (fieldX w)
  | .ldMemStore _ => .ldMemStore (fieldX w)
  | .ldMemLoad _ => .ldMemLoad (fieldX w)

@[simp] theorem opcodeRow_withFieldsOf (i : Instr) (w : Word) : opcodeRow (i.withFieldsOf w) = opcodeRow i := by
  cases i <;> rfl

/-- An instruction has a word's fields as its operands exactly when reading them from the word changes nothing. -/
theorem operandsFrom_iff {w : Word} {i : Instr} : OperandsFrom w i ↔ i.withFieldsOf w = i := by
  cases i <;> simp [OperandsFrom, eq_comm]

/-- A word's fields are well-formed operands (R92). -/
theorem wellFormed_withFieldsOf (i : Instr) (w : Word) : (i.withFieldsOf w).wellFormed = true := by
  cases i with
  | jp | call | ldI | jpV0 => exact fieldNNN_inRange w
  | _ => rfl

/-- The row of an instruction selects a word, and the word's fields are the instruction's operands. -/
def RowReads (w : Word) (i : Instr) : Prop :=
  w &&& (opcodeRow i).1 = (opcodeRow i).2 ∧ i.withFieldsOf w = i

/-! ### What the decoder and each of its groups give (R93, R94) -/

section
variable {w : Word} {i : Instr}

theorem rowReads_of_decodeGroup0 (h : decodeGroup0 w = .instr i) : RowReads w i := by
  unfold decodeGroup0 at h
  split_ifs at h with cls ret <;> cases h
  · exact ⟨(mask_all w).trans cls, rfl⟩
  · exact ⟨(mask_all w).trans ret, rfl⟩

theorem rowReads_of_decodeGroup8 (op : (fieldOp w).toNat = 0x8) (h : decodeGroup8 w = .instr i) : RowReads w i := by
  unfold decodeGroup8 at h
  split at h <;> cases h
  all_goals
    have row := mask_op_n_of op ‹_›
    exact ⟨row, rfl⟩

theorem rowReads_of_decodeGroupE (op : (fieldOp w).toNat = 0xE) (h : decodeGroupE w = .instr i) : RowReads w i := by
  unfold decodeGroupE at h
  split_ifs at h <;> cases h
  all_goals
    have row := mask_op_nn_of op ‹_›
    exact ⟨row, rfl⟩

theorem rowReads_of_decodeGroupF (op : (fieldOp w).toNat = 0xF) (h : decodeGroupF w = .instr i) : RowReads w i := by
  unfold decodeGroupF at h
  split_ifs at h <;> cases h
  all_goals
    have row := mask_op_nn_of op ‹_›
    exact ⟨row, rfl⟩

theorem rowReads_of_decode (h : decode w = .instr i) : RowReads w i := by
  unfold decode at h
  split at h
  case h_1 => exact rowReads_of_decodeGroup0 h
  case h_9 op => exact rowReads_of_decodeGroup8 op h
  case h_15 op => exact rowReads_of_decodeGroupE op h
  case h_16 =>
    have lt := (fieldOp w).isLt
    have op : (fieldOp w).toNat = 0xF := by simp only [imp_false] at *; omega
    exact rowReads_of_decodeGroupF op h
  all_goals
    cases h
    have row := mask_op_of ‹(fieldOp w).toNat = _›
    exact ⟨row, rfl⟩

/-- A word that the row of i selects decodes to that row's instruction with the word's fields. -/
theorem decode_of_row (row : w &&& (opcodeRow i).1 = (opcodeRow i).2) :
    decode w = .instr (i.withFieldsOf w) := by
  cases i with
  | cls | ret =>
    obtain rfl := (mask_all w).symm.trans row
    rfl
  | ldReg | orReg | andReg | xorReg | addReg | sub | shr | subn | shl =>
    obtain ⟨op, n⟩ := op_of_mask_n row
    simp [decode, op, opcodeRow, decodeGroup8, n]
  | skp | sknp | ldVxDt | ldVxK | ldDt | ldSt | addI | ldF | ldB | ldMemStore | ldMemLoad =>
    obtain ⟨op, nn⟩ := op_of_mask_nn row
    simp [decode, op, opcodeRow, decodeGroupE, decodeGroupF, nn]
  | _ =>
    have op := op_of_mask row
    simp [decode, op, opcodeRow]

/-- A word decodes to an instruction exactly when that instruction's row selects it and its fields are the operands. -/
theorem decode_eq_instr_iff : decode w = .instr i ↔ RowReads w i := by
  refine ⟨rowReads_of_decode, fun ⟨row, operands⟩ => ?_⟩
  rw [decode_of_row row, operands]

end

/-! ### The round trip (R90, R91, R96) -/

/-- The encoding of an instruction lies in its row of the opcode map (R96). -/
theorem encode_row (i : Instr) : encode i &&& (opcodeRow i).1 = (opcodeRow i).2 := by
  cases i with
  | cls | ret => exact mask_all _
  | jp | call | ldI | jpV0 => exact Laws.EncodeRow.mask_packNNN _ _
  | seImm | sneImm | ldImm | addImm | rnd => exact Laws.EncodeRow.mask_packXNN _ _ _
  | seReg | sneReg | drw => exact Laws.EncodeRow.mask_packXYN _ _ _ _
  | ldReg | orReg | andReg | xorReg | addReg | sub | shr | subn | shl => exact Laws.EncodeRow.mask_packXYN_n _ _ _ _
  | _ => exact Laws.EncodeRow.mask_packXNN_nn _ _ _

/-- The fields of a well-formed instruction's encoding are its operands (R91, R92). -/
theorem withFieldsOf_encode {i : Instr} (h : i.wellFormed = true) : i.withFieldsOf (encode i) = i := by
  cases i with
  | jp nnn | call nnn | ldI nnn | jpV0 nnn =>
    have inRange : nnnInRange nnn = true := h
    simp [encode, fieldNNN_packNNN, inRange]
  | _ => simp [encode]

theorem decode_encode {i : Instr} (h : i.wellFormed = true) : decode (encode i) = .instr i :=
  decode_eq_instr_iff.2 ⟨encode_row i, withFieldsOf_encode h⟩

/-- Settles O1: an encoding lies in its instruction's row and holds its operands, and its two bytes make it up. -/
theorem decodeOfEncodeIsInstr : Obligations.DecodeOfEncodeIsInstr := by
  unfold Obligations.DecodeOfEncodeIsInstr
  intro i wf
  refine ⟨decode_encode wf, fun rest => ?_⟩
  simp [encodeBytes, decodeBytes, decode_encode wf]

/-! ### What the decoder gives (R92, R96, R99) -/

/-- Settles O2: the operands are a word's fields, and those are well formed. -/
theorem decodeGivesWellFormed : Obligations.DecodeGivesWellFormed := by
  unfold Obligations.DecodeGivesWellFormed
  intro w i h
  obtain ⟨-, operands⟩ := decode_eq_instr_iff.1 h
  exact operands ▸ wellFormed_withFieldsOf i w

/-- Settles O4: a decoded instruction's row selects the word, and where a row selects the word, the instruction of that
row with the word's fields is what it decodes to. -/
theorem decodeFollowsOpcodeMap : Obligations.DecodeFollowsOpcodeMap := by
  unfold Obligations.DecodeFollowsOpcodeMap
  refine ⟨fun w i h => (decode_eq_instr_iff.1 h).1, fun w i row => ?_⟩
  exact ⟨_, decode_of_row row, opcodeRow_withFieldsOf i w⟩

/-! ### Unrecognized words (R97, R98) -/

section
variable {w u : Word}

theorem fieldNN_eq_iff {nn : Byte} : fieldNN w = nn ↔ w.toNat % 256 = nn.toNat := by
  rw [← fieldNN_toNat, BitVec.toNat_inj]

theorem decodeGroup0_eq_unrecognized :
    decodeGroup0 w = .unrecognized u ↔ w = u ∧ w.toNat ≠ 0x00E0 ∧ w.toNat ≠ 0x00EE := by
  have cls : w = 0x00E0#16 ↔ w.toNat = 0x00E0 := BitVec.toNat_inj.symm
  have ret : w = 0x00EE#16 ↔ w.toNat = 0x00EE := BitVec.toNat_inj.symm
  simp only [decodeGroup0, cls, ret]
  split_ifs <;> simp [*]

theorem decodeGroup8_eq_unrecognized :
    decodeGroup8 w = .unrecognized u ↔ w = u ∧ w.toNat % 16 ∈ [0x8, 0x9, 0xA, 0xB, 0xC, 0xD, 0xF] := by
  unfold decodeGroup8
  rw [fieldN_val]
  split
  case h_10 =>
    have rest : w.toNat % 16 ∈ [0x8, 0x9, 0xA, 0xB, 0xC, 0xD, 0xF] := by
      simp only [imp_false, List.mem_cons, List.not_mem_nil, or_false] at *
      omega
    simp [rest]
  all_goals simp [*]

theorem decodeGroupE_eq_unrecognized :
    decodeGroupE w = .unrecognized u ↔ w = u ∧ w.toNat % 256 ∉ [0x9E, 0xA1] := by
  simp only [decodeGroupE, fieldNN_eq_iff, BitVec.reduceToNat]
  split_ifs <;> simp [*]

theorem decodeGroupF_eq_unrecognized :
    decodeGroupF w = .unrecognized u ↔
      w = u ∧ w.toNat % 256 ∉ [0x07, 0x0A, 0x15, 0x18, 0x1E, 0x29, 0x33, 0x55, 0x65] := by
  simp only [decodeGroupF, fieldNN_eq_iff, BitVec.reduceToNat]
  split_ifs <;> simp [*]

/-- The unrecognized words by their group, each under its own value (R98). -/
theorem decode_eq_unrecognized_iff :
    decode w = .unrecognized u ↔ w = u ∧
      ((w.toNat / 4096 = 0x0 ∧ w.toNat ≠ 0x00E0 ∧ w.toNat ≠ 0x00EE) ∨
       (w.toNat / 4096 = 0x8 ∧ w.toNat % 16 ∈ [0x8, 0x9, 0xA, 0xB, 0xC, 0xD, 0xF]) ∨
       (w.toNat / 4096 = 0xE ∧ w.toNat % 256 ∉ [0x9E, 0xA1]) ∨
       (w.toNat / 4096 = 0xF ∧ w.toNat % 256 ∉ [0x07, 0x0A, 0x15, 0x18, 0x1E, 0x29, 0x33, 0x55, 0x65])) := by
  unfold decode
  rw [fieldOp_toNat]
  split
  case h_1 op => simp [op, decodeGroup0_eq_unrecognized]
  case h_9 op => simp [op, decodeGroup8_eq_unrecognized]
  case h_15 op => simp [op, decodeGroupE_eq_unrecognized]
  case h_16 =>
    have lt := w.isLt
    have op : w.toNat / 4096 = 0xF := by simp only [imp_false] at *; omega
    simp [op, decodeGroupF_eq_unrecognized]
  all_goals simp [*]

/-- Settles O5: the words of group 0 are those below 0x1000. -/
theorem unrecognizedWordsAreTheListed : Obligations.UnrecognizedWordsAreTheListed := by
  unfold Obligations.UnrecognizedWordsAreTheListed
  intro w
  have group0 : w.toNat / 4096 = 0x0 ↔ w.toNat < 0x1000 := Nat.div_eq_zero_iff_lt (by decide)
  rw [decode_eq_unrecognized_iff, group0]
  exact and_iff_right rfl

/-- The words that select no row are the unrecognized ones (R97). -/
theorem selectsNoRow_iff : SelectsNoRow w ↔ decode w = .unrecognized w := by
  constructor
  · intro noRow
    cases h : decode w with
    | instr i => exact absurd (decode_eq_instr_iff.1 h).1 (noRow i)
    | unrecognized u => rw [(decode_eq_unrecognized_iff.1 h).1]
  · intro h i row
    rw [decode_of_row row] at h
    cases h

/-- Settles O6: by what the word decodes to. -/
theorem decodingIsTotal : Obligations.DecodingIsTotal := by
  unfold Obligations.DecodingIsTotal
  intro w
  cases h : decode w with
  | instr i =>
    obtain ⟨row, operands⟩ := decode_eq_instr_iff.1 h
    exact .inl ⟨i, rfl, row, operandsFrom_iff.2 operands, decodeGivesWellFormed w i h⟩
  | unrecognized u =>
    obtain ⟨rfl, -⟩ := decode_eq_unrecognized_iff.1 h
    exact .inr ⟨rfl, selectsNoRow_iff.2 h⟩

end

/-! ### The spec's own words (R100) -/

/-- Settles O7: each of the twelve words is decoded. -/
theorem specWordsDecode : Obligations.SpecWordsDecode := by
  unfold Obligations.SpecWordsDecode
  decide

end Sys2Proof

namespace Sys2Proof.Machine

/-! ### The step at an unrecognized word (R97, R125) -/

/-- A PC two further on, modulo 65536, is the next PC (R12). -/
theorem nextPc_of_pc_eq {s t : State} (h : t.pc = s.pc + 2) : NextPc s t := by rw [NextPc, h]; rfl

/-- Settles O9: the fetched word decodes as unrecognized, so the step emits its diagnostic, advances and counts. -/
theorem unrecognizedWordIsDiagnosedNoOp : Obligations.UnrecognizedWordIsDiagnosedNoOp := by
  unfold Obligations.UnrecognizedWordIsDiagnosedNoOp
  intro s hi lo run readHi readLo noRow
  refine ⟨(s.emitDiag (wordOfBytes hi lo)).advance, ?step, rfl, nextPc_of_pc_eq rfl, run, rfl⟩
  rw [step, stepWith_fetched _ _ run (State.fetch_of_bytes readHi readLo), selectsNoRow_iff.1 noRow]
  rfl

end Sys2Proof.Machine


/-! PROOF. The execution cycle (`40_execution_cycle.md` R120 to R126): the fetch, the step as fetch, execution and
counting, the cadence (`60_exceptions.md` R278 to R283), and the next PC by class (R123). -/

namespace Sys2Proof.Machine

/-! ### The fetch (R121) -/

/-- Settles O11: the fetch gives the word of its two bytes, high byte first. -/
theorem fetchIsBigEndian : Obligations.FetchIsBigEndian := by
  unfold Obligations.FetchIsBigEndian
  exact fun _ hi lo readHi readLo => ⟨_, State.fetch_of_bytes readHi readLo, wordOfBytes_toNat hi lo⟩

/-- A fetch of which a byte lies past memory faults at the first address that does (R121, R275). -/
theorem State.fetch_fault {s : State} (h : 0x0FFF ≤ s.pc.toNat) :
    s.fetch = .error (.memoryFault (max s.pc.toNat 4096)) := by
  rw [State.fetch_eq, if_neg (by omega)]

/-- Settles O12: the fetch faults, and the step enters that fault. -/
theorem fetchPastMemoryFaults : Obligations.FetchPastMemoryFaults := by
  unfold Obligations.FetchPastMemoryFaults
  intro s run h
  have first : max s.pc.toNat 4096 = if s.pc.toNat = 0x0FFF then 0x1000 else s.pc.toNat := by split <;> omega
  rw [step, stepWith_fetchFault _ _ run (State.fetch_fault h), first]
  rfl

/-! ### The step (R120, R126) -/

/-- Settles O8: the two bytes are fetched and decoded, the instruction runs, and the step is counted. -/
theorem stepRunsDecodedInstruction : Obligations.StepRunsDecodedInstruction := by
  unfold Obligations.StepRunsDecodedInstruction
  intro s t hi lo i run readHi readLo dec e
  rw [step, stepWith_fetched _ _ run (State.fetch_of_bytes readHi readLo), dec, execDecoded, e, countOutcome]

/-- Settles O10: a step has an effect only while STATUS is Running. -/
theorem faultedStepHasNoEffect : Obligations.FaultedStepHasNoEffect := by
  unfold Obligations.FaultedStepHasNoEffect
  exact fun _ _ _ faulted => stepWith_faulted _ _ faulted

/-- Whatever a word decodes to answers a next state. -/
theorem execDecoded_next (d : Decoded) (s : State) : ∃ t, execDecoded d s = .next t := by
  cases d with
  | instr i => exact ⟨_, exec_eq i s⟩
  | unrecognized w => exact ⟨_, rfl⟩

/-- A step answers a next state, for every period and every key snapshot. -/
theorem stepWith_next (p : Nat) (k : Keys) (s : State) : ∃ t, stepWith p k s = .next t := by
  obtain ⟨f, a, -, step⟩ | ⟨f, -, -, step⟩ | ⟨w, -, -, step⟩ := stepWith_cases p k s
  · exact ⟨_, step⟩
  · exact ⟨_, step⟩
  · obtain ⟨u, e⟩ := execDecoded_next (decode w) s
    exact ⟨_, by rw [step, e, countOutcome]⟩

/-- Settles O13: no step is refused and none stops the model. -/
theorem everyStepAnswersNext : Obligations.EveryStepAnswersNext := by
  unfold Obligations.EveryStepAnswersNext
  exact fun s => stepWith_next Config.cyclesPerTick (Config.keysIn s.keyDraws) s

/-! ### The cadence (R278 to R283) -/

/-- The gate is on after a countdown exactly if the timer was 2 or more (R280, R281). -/
theorem countDown_ne_zero {b : Byte} : (countDown b != 0) = true ↔ 2 ≤ b.toNat := by
  rw [bne_iff_ne, ne_eq, ← BitVec.toNat_inj, countDown_toNat]
  change ¬b.toNat - 1 = 0 ↔ 2 ≤ b.toNat
  omega

/-- Counting a step is what R278 says: a tick at the last step of a period, and one more step before it. -/
theorem counted_countStep (p : Nat) (k : Keys) (s : State) : Counted p k s (s.countStep p k) := by
  refine ⟨fun due => ?_, fun notDue => ?_⟩
  · rw [State.countStep_due k due]
    exact ⟨rfl, countDown_toNat s.dt, countDown_toNat s.st, rfl, countDown_ne_zero, rfl, rfl, rfl, rfl⟩
  · rw [State.countStep_notDue k notDue]
    exact ⟨rfl, rfl⟩

/-- Executing a word touches neither the cadence nor what a tick alone writes, whether it faults or not. -/
theorem execDecoded_keeps_cadence {d : Decoded} {s u : State} (e : execDecoded d s = .next u) :
    u.stepCnt = s.stepCnt ∧ u.keys = s.keys ∧ u.fbOut = s.fbOut ∧ u.soundOn = s.soundOn ∧
      u.keyDraws = s.keyDraws := by
  cases d with
  | unrecognized w => cases e; exact ⟨rfl, rfl, rfl, rfl, rfl⟩
  | instr i =>
    obtain ⟨f, -, rfl⟩ | ⟨-, rfl⟩ := exec_cases e
    · exact ⟨rfl, rfl, rfl, rfl, rfl⟩
    · rw [effectOf_frame]; exact ⟨rfl, rfl, rfl, rfl, rfl⟩

/-- A step that leaves a running machine running has executed the fetched word and counted once (R120). -/
theorem stepWith_running {p : Nat} {k : Keys} {s t : State} (run : s.status = .running)
    (e : stepWith p k s = .next t) (run' : t.status = .running) :
    ∃ w u, s.fetch = .ok w ∧ execDecoded (decode w) s = .next u ∧ t = u.countStep p k := by
  obtain ⟨f, a, faulted, -⟩ | ⟨f, -, -, step⟩ | ⟨w, -, fetch, step⟩ := stepWith_cases p k s
  · rw [run] at faulted; cases faulted
  · rw [step] at e; cases e; cases run'
  · rw [step] at e
    obtain ⟨u, executed, rfl⟩ := countOutcome_eq_next e
    rw [State.afterInstr_status] at run'
    exact ⟨w, u, fetch, executed, State.afterInstr_running p k run'⟩

/-- Settles O20: counting is as R278 says, and a step that does not fault executes its word and counts once. -/
theorem cadenceCountsSteps : Obligations.CadenceCountsSteps := by
  unfold Obligations.CadenceCountsSteps
  refine ⟨counted_countStep, fun p k s t run e run' => ?_⟩
  obtain ⟨w, u, fetch, executed, rfl⟩ := stepWith_running run e run'
  obtain ⟨stepCnt, keys, fbOut, soundOn, keyDraws⟩ := execDecoded_keeps_cadence executed
  exact ⟨w, u, fetch, executed, stepCnt, keys, fbOut, soundOn, keyDraws, counted_countStep p k u⟩

/-! ### The next PC (R123) -/

/-- The PC of the skip class, as a number (R12, R123). -/
theorem skipPc_toNat (a : Word) {c : Bool} {P : Prop} [Decidable P] (h : c = true ↔ P) :
    (a + if c then 4 else 2).toNat = if P then (a.toNat + 4) % 65536 else (a.toNat + 2) % 65536 := by
  rw [← if_congr h rfl rfl]
  cases c <;> rfl

/-- An effect leaves the PC of its instruction's class (R123). -/
theorem effectOf_pc_toNat (i : Instr) (s : State) : (effectOf i s).pc.toNat = pcAfter i s := by
  cases i with
  | seImm x nn | seReg x y => exact skipPc_toNat s.pc beq_iff_eq
  | sneImm x nn | sneReg x y => exact skipPc_toNat s.pc bne_iff_ne
  | skp x => exact skipPc_toNat s.pc Iff.rfl
  | sknp x => exact skipPc_toNat s.pc (Bool.not_eq_true' _).to_iff
  | jpV0 nnn => simp [effectOf, pcAfter]
  | ldVxK x =>
    obtain ⟨k, first, e⟩ | ⟨noKey, e⟩ := effectOf_ldVxK_cases x s <;> rw [e]
    · have pressed : s.keys ≠ 0 := fun zero => by simp [State.firstKey_eq_none.2 zero] at first
      exact (if_neg pressed).symm
    · exact (if_pos (State.firstKey_eq_none.1 noKey)).symm
  | ldMemLoad x => rw [effectOf, State.advance_pc, State.setVs_pc]; rfl
  | _ => rfl

/-- Settles O19: an instruction that completes has its effect, and an unrecognized word advances. -/
theorem nextPcFollowsClass : Obligations.NextPcFollowsClass := by
  unfold Obligations.NextPcFollowsClass
  refine ⟨fun i s t _ e run => ?_, fun w s t e => ?_⟩
  · obtain ⟨-, rfl⟩ := exec_running e run
    exact effectOf_pc_toNat i s
  · cases e
    exact nextPc_of_pc_eq rfl

end Sys2Proof.Machine

/-! PROOF. The control-transfer instructions (`41_flow.md` R140 to R147). What one does is read off `effectOf` where
`faultOf` gives no fault, and is the fault entered where it does; what the words of its row decode to is said once for
every row. -/

namespace Sys2Proof.Machine

/-! ### Every instruction's encoding and answer, in the terms of the statements -/

/-- The words of an instruction's row decode to that row's instruction with the word's fields (R91, R96). -/
theorem encodes_opcodeRow (i : Instr) : Encodes (opcodeRow i).1 (opcodeRow i).2 i.withFieldsOf :=
  fun _ row => decode_of_row row

theorem exec_of_noFault {i : Instr} {s : State} (h : faultOf i s = none) : exec i s = .next (effectOf i s) := by
  rw [exec_eq, answer_of_noFault h]

theorem exec_of_fault {i : Instr} {s : State} {f : Fault} (h : faultOf i s = some f) :
    exec i s = .next (Faulted s f) := by
  rw [exec_eq, answer_of_fault h]; rfl

/-! ### Jumps and skips (R123) -/

theorem onlyPc_jump (s : State) (a : Word) : OnlyPc s (s.jump a) := ⟨rfl, State.memRead_congr rfl⟩

/-- A jump to PC + 4 on a condition and to PC + 2 without it is a skip on what the condition stands for. -/
theorem skipPc_jump (s : State) {c : Bool} {P : Prop} [Decidable P] (h : c = true ↔ P) :
    SkipPc P s (s.jump (s.pc + if c then 4 else 2)) := by
  have pc := skipPc_toNat s.pc h
  exact ⟨fun holds => pc.trans (if_pos holds), fun fails => pc.trans (if_neg fails)⟩

/-- Settles O33: the effect is the jump to nnn. -/
theorem jpSetsPc : Obligations.JpSetsPc := by
  unfold Obligations.JpSetsPc
  exact ⟨encodes_opcodeRow (.jp 0), fun nnn s => ⟨_, exec_of_noFault rfl, rfl, onlyPc_jump s nnn⟩⟩

/-- Settles O37: both effects are conditional jumps, on the register's equality with nn and on its failure. -/
theorem skipsOnImmediate : Obligations.SkipsOnImmediate := by
  unfold Obligations.SkipsOnImmediate
  refine ⟨encodes_opcodeRow (.seImm 0 0), encodes_opcodeRow (.sneImm 0 0), fun x nn s => ?se, fun x nn s => ?sne⟩
  case se => exact ⟨_, exec_of_noFault rfl, skipPc_jump s beq_iff_eq, onlyPc_jump s _⟩
  case sne => exact ⟨_, exec_of_noFault rfl, skipPc_jump s bne_iff_ne, onlyPc_jump s _⟩

/-- Settles O38: both effects are conditional jumps, on the registers' equality and on its failure. -/
theorem skipsOnRegisters : Obligations.SkipsOnRegisters := by
  unfold Obligations.SkipsOnRegisters
  refine ⟨encodes_opcodeRow (.seReg 0 0), encodes_opcodeRow (.sneReg 0 0), fun x y s => ?se, fun x y s => ?sne⟩
  case se => exact ⟨_, exec_of_noFault rfl, skipPc_jump s beq_iff_eq, onlyPc_jump s _⟩
  case sne => exact ⟨_, exec_of_noFault rfl, skipPc_jump s bne_iff_ne, onlyPc_jump s _⟩

/-- Settles O39: a 12-bit nnn and a byte sum to less than 65536, so the sum does not wrap. -/
theorem jpV0AddsV0 : Obligations.JpV0AddsV0 := by
  unfold Obligations.JpV0AddsV0
  refine ⟨encodes_opcodeRow (.jpV0 0), fun nnn s inRange => ⟨_, exec_of_noFault rfl, ?sum, onlyPc_jump s _⟩⟩
  have nnnLt : nnn.toNat < 4096 := of_decide_eq_true inRange
  have v0Lt := (s.getV 0).isLt
  calc (effectOf (.jpV0 nnn) s).pc.toNat
    _ = (nnn.toNat + (s.getV 0).toNat) % 65536 := effectOf_pc_toNat (.jpV0 nnn) s
    _ = nnn.toNat + (s.getV 0).toNat := Nat.mod_eq_of_lt (by omega)

/-! ### A call and its return (R140, R142) -/

section
variable {s : State}

theorem faultOf_call_eq_none (nnn : Word) (lt : s.sp.val < 16) : faultOf (.call nnn) s = none :=
  if_neg fun full => by rw [full] at lt; exact absurd lt (by decide)

theorem faultOf_call_full (nnn : Word) (h : s.sp.val = 16) : faultOf (.call nnn) s = some (.stackOverflow 16) :=
  if_pos (Fin.ext h)

theorem faultOf_ret_eq_none (h : s.sp.val ≠ 0) : faultOf .ret s = none := if_neg fun empty => h (congrArg Fin.val empty)

theorem faultOf_ret_empty (h : s.sp.val = 0) : faultOf .ret s = some (.stackUnderflow 0) := if_pos (Fin.ext h)

theorem effectOf_call_sp (nnn : Word) (lt : s.sp.val < 16) : (effectOf (.call nnn) s).sp.val = s.sp.val + 1 :=
  Fin.val_add_one_of_lt lt

/-- A call's entry is the address after it (D7). -/
theorem effectOf_call_stack_sp (nnn : Word) (lt : s.sp.val < 16) :
    (effectOf (.call nnn) s).stack.get ⟨s.sp.val, lt⟩ = s.pc + 2 := Vector.getElem_setIfInBounds_self lt

theorem effectOf_ret_sp (h : s.sp.val ≠ 0) : (effectOf .ret s).sp.val = s.sp.val - 1 :=
  Fin.val_sub_one_of_ne_zero fun empty => h (congrArg Fin.val empty)

theorem effectOf_ret_pc {k : Fin 16} (h : s.sp.val = k.val + 1) : (effectOf .ret s).pc = s.stack.get k := by
  have below : s.sp.val - 1 = k.val := by omega
  change s.stack[s.sp.val - 1]'s.sp_pred_lt = s.stack[k.val]
  simp only [below]

/-- A return takes the stack back to where it was before the call, and PC to the instruction after it. -/
theorem effectOf_ret_effectOf_call (nnn : Word) (lt : s.sp.val < 16) :
    effectOf .ret (effectOf (.call nnn) s) =
      { s with pc := s.pc + 2, stack := (effectOf (.call nnn) s).stack } := by
  have callSp := effectOf_call_sp nnn lt
  have pc : (effectOf .ret (effectOf (.call nnn) s)).pc = s.pc + 2 :=
    (effectOf_ret_pc (k := ⟨s.sp.val, lt⟩) callSp).trans (effectOf_call_stack_sp nnn lt)
  have sp : (effectOf .ret (effectOf (.call nnn) s)).sp = s.sp :=
    Fin.ext (by rw [effectOf_ret_sp (by omega), callSp, Nat.add_sub_cancel])
  rw [← pc]
  exact State.ext rfl rfl rfl rfl sp rfl rfl rfl rfl rfl rfl rfl rfl rfl rfl rfl rfl

end

/-- Settles O34: below SP 16 the effect writes the entry at SP and no other, and at SP 16 the call faults. -/
theorem callPushesOrOverflows : Obligations.CallPushesOrOverflows := by
  unfold Obligations.CallPushesOrOverflows
  refine ⟨encodes_opcodeRow (.call 0), fun nnn s lt => ?push, fun nnn s full => ?overflow⟩
  case push =>
    have pushed := congrArg BitVec.toNat (effectOf_call_stack_sp nnn lt)
    exact ⟨_, exec_of_noFault (faultOf_call_eq_none nnn lt), rfl, effectOf_call_sp nnn lt, pushed,
      fun _ ne => effectOf_call_stack_get ne, rfl, State.memRead_congr rfl⟩
  case overflow => exact exec_of_fault (faultOf_call_full nnn full)

/-- Settles O35: above SP 0 the effect takes the entry below SP, and at SP 0 the return faults. -/
theorem retPopsOrUnderflows : Obligations.RetPopsOrUnderflows := by
  unfold Obligations.RetPopsOrUnderflows
  refine ⟨encodes_opcodeRow .ret, fun s k h => ?pop, fun s empty => ?underflow⟩
  case pop =>
    have sp : (effectOf .ret s).sp.val = k.val := by rw [effectOf_ret_sp (by omega), h, Nat.add_sub_cancel]
    exact ⟨_, exec_of_noFault (faultOf_ret_eq_none (by omega)), effectOf_ret_pc h, sp, rfl, State.memRead_congr rfl⟩
  case underflow => exact exec_of_fault (faultOf_ret_empty empty)

/-- Settles O36: neither the call nor its return faults, so the return has its effect on what the call left. -/
theorem callThenRetResumesAfterCall : Obligations.CallThenRetResumesAfterCall := by
  unfold Obligations.CallThenRetResumesAfterCall
  intro nnn s t u lt call ret
  have callSp := effectOf_call_sp nnn lt
  rw [exec_of_noFault (faultOf_call_eq_none nnn lt)] at call
  cases call
  rw [exec_of_noFault (faultOf_ret_eq_none (by omega)), effectOf_ret_effectOf_call nnn lt] at ret
  cases ret
  exact ⟨nextPc_of_pc_eq rfl, rfl, rfl⟩

end Sys2Proof.Machine


/-! PROOF. The loads and arithmetic (`42_alu.md` R170 to R181). What one writes is read off `effectOf`; what it leaves
alone is R23's list of the registers it may write (`writesReg`); a flag and a result are what `setFlagThen` leaves. -/

namespace Sys2Proof.Machine

/-! ### What an instruction of the ALU writes, and its frame -/

/-- An effect that changes nothing but registers and PC changes only the registers of R23's first list. -/
theorem onlyRegs_effectOf {i : Instr} {s : State}
    (frame : effectOf i s = { s with v := (effectOf i s).v, pc := (effectOf i s).pc }) :
    OnlyRegs (writesReg i) s (effectOf i s) :=
  ⟨frame, fun _ notWritten => getV_effectOf_of_not_writesReg s notWritten,
    State.memRead_congr (by rw [frame])⟩

/-- The register written reads as the byte written. -/
theorem State.getV_setV_self (s : State) (x : Reg) (b : Byte) : (s.setV x b).getV x = b :=
  (s.getV_setV x x b).trans (if_pos rfl)

/-- The result stands in its register whether or not that is VF, because it is written last (R127, D8). -/
theorem State.getV_setFlagThen_self (s : State) (g : Byte) (x : Reg) (b : Byte) : (s.setFlagThen g x b).getV x = b :=
  (s.setV vf g).getV_setV_self x b

/-! ### The flags and the difference, as numbers -/

theorem flagOf_decide (P : Prop) [Decidable P] : flagOf (decide P) = if P then 1 else 0 :=
  if_congr decide_eq_true_iff rfl rfl

/-- The carry is that of the exact sum (R176). -/
theorem carryFlag_eq (a b : Byte) : carryFlag a b = if a.toNat + b.toNat > 255 then 1 else 0 := flagOf_decide _

/-- Not-borrow is set only where the minuend is strictly greater (R177, R179). -/
theorem greaterFlag_eq (a b : Byte) : greaterFlag a b = if a.toNat > b.toNat then 1 else 0 := flagOf_decide _

/-- A difference of bytes is the integer difference modulo 256 (R177, R179). -/
theorem Byte.sub_toNat (a b : Byte) : ((a - b).toNat : Int) = ((a.toNat : Int) - b.toNat) % 256 := by
  have borrowed : (a - b).toNat = (256 - b.toNat + a.toNat) % 256 := BitVec.toNat_sub a b
  have bLt := b.isLt
  omega

/-! ### Results without a flag -/

/-- Settles O40: Vx takes the operand, the immediate or Vy. -/
theorem loadsWriteVx : Obligations.LoadsWriteVx := by
  unfold Obligations.LoadsWriteVx
  refine ⟨encodes_opcodeRow (.ldImm 0 0), encodes_opcodeRow (.ldReg 0 0), fun x nn s => ?imm, fun x y s => ?reg⟩
  case imm =>
    exact ⟨_, exec_of_noFault rfl, s.getV_setV_self x nn, nextPc_of_pc_eq rfl, onlyRegs_effectOf rfl⟩
  case reg =>
    exact ⟨_, exec_of_noFault rfl, s.getV_setV_self x _, nextPc_of_pc_eq rfl, onlyRegs_effectOf rfl⟩

/-- Settles O41: Vx takes the sum of bytes, and R23 lists no other register. -/
theorem addImmediateWraps : Obligations.AddImmediateWraps := by
  unfold Obligations.AddImmediateWraps
  refine ⟨encodes_opcodeRow (.addImm 0 0), fun x nn s =>
    ⟨_, exec_of_noFault rfl, ?sum, nextPc_of_pc_eq rfl, onlyRegs_effectOf rfl⟩⟩
  calc ((effectOf (.addImm x nn) s).getV x).toNat
    _ = (s.getV x + nn).toNat := congrArg BitVec.toNat (s.getV_setV_self x _)
    _ = ((s.getV x).toNat + nn.toNat) % 256 := BitVec.toNat_add _ _

/-- Settles O42: the bits of a bitwise operation's result are that operation of its operands' bits. -/
theorem bitwiseWritesVx : Obligations.BitwiseWritesVx := by
  unfold Obligations.BitwiseWritesVx
  refine ⟨encodes_opcodeRow (.orReg 0 0), encodes_opcodeRow (.andReg 0 0), encodes_opcodeRow (.xorReg 0 0),
    fun x y s => ?or, fun x y s => ?and, fun x y s => ?xor⟩
  case or =>
    have result : (effectOf (.orReg x y) s).getV x = s.getV x ||| s.getV y := s.getV_setV_self x _
    exact ⟨_, exec_of_noFault rfl, fun k => by rw [result, BitVec.getLsbD_or], nextPc_of_pc_eq rfl,
      onlyRegs_effectOf rfl⟩
  case and =>
    have result : (effectOf (.andReg x y) s).getV x = s.getV x &&& s.getV y := s.getV_setV_self x _
    exact ⟨_, exec_of_noFault rfl, fun k => by rw [result, BitVec.getLsbD_and], nextPc_of_pc_eq rfl,
      onlyRegs_effectOf rfl⟩
  case xor =>
    have result : (effectOf (.xorReg x y) s).getV x = s.getV x ^^^ s.getV y := s.getV_setV_self x _
    exact ⟨_, exec_of_noFault rfl, fun k => by rw [result, BitVec.getLsbD_xor], nextPc_of_pc_eq rfl,
      onlyRegs_effectOf rfl⟩

/-- Settles O46: the draw is consumed, and the byte drawn is written under the mask, which is 0 under the mask 0. -/
theorem rndMasksFreeDraw : Obligations.RndMasksFreeDraw := by
  unfold Obligations.RndMasksFreeDraw
  refine ⟨encodes_opcodeRow (.rnd 0 0), fun x nn s => ?draw⟩
  have drawn : (effectOf (.rnd x nn) s).getV x = Config.randIn s.randDraws &&& nn :=
    s.consumeRand.getV_setV_self x _
  have zeroMask : nn = 0 → (effectOf (.rnd x nn) s).getV x = 0 := by
    rintro rfl
    exact drawn.trans BitVec.and_zero
  exact ⟨_, exec_of_noFault rfl, drawn, zeroMask, rfl, fun _ ne => getV_effectOf_of_not_writesReg s ne,
    nextPc_of_pc_eq rfl, State.memRead_congr rfl, rfl⟩

/-! ### Results with a flag -/

/-- Settles O43: Vx takes the sum of bytes, and VF, where it is not Vx, the carry of the exact sum. -/
theorem addSetsCarry : Obligations.AddSetsCarry := by
  unfold Obligations.AddSetsCarry
  refine ⟨encodes_opcodeRow (.addReg 0 0), fun x y s => ⟨_, exec_of_noFault rfl, ?sum, fun notF => ?carry,
    nextPc_of_pc_eq rfl, onlyRegs_effectOf rfl⟩⟩
  case sum =>
    calc ((effectOf (.addReg x y) s).getV x).toNat
      _ = (s.getV x + s.getV y).toNat := congrArg BitVec.toNat (s.getV_setFlagThen_self _ x _)
      _ = ((s.getV x).toNat + (s.getV y).toNat) % 256 := BitVec.toNat_add _ _
  case carry => exact (State.getV_vf_setFlagThen notF).trans (carryFlag_eq _ _)

/-- What a subtraction of two bytes into Vx leaves in Vx and VF, whichever register the minuend is (R177, R179). -/
theorem getV_setFlagThen_sub (s : State) (x : Reg) (a b : Byte) :
    (((s.setFlagThen (greaterFlag a b) x (a - b)).advance.getV x).toNat : Int) = ((a.toNat : Int) - b.toNat) % 256 ∧
    (x ≠ 15 → (s.setFlagThen (greaterFlag a b) x (a - b)).advance.getV 15 = if a.toNat > b.toNat then 1 else 0) := by
  refine ⟨?difference, fun notF => (State.getV_vf_setFlagThen notF).trans (greaterFlag_eq a b)⟩
  rw [State.getV_advance, State.getV_setFlagThen_self, Byte.sub_toNat]

/-- Settles O44: 8XY5 subtracts Vy from Vx, and 8XY7 Vx from Vy, both into Vx (C1). -/
theorem subtractionsSetNotBorrow : Obligations.SubtractionsSetNotBorrow := by
  unfold Obligations.SubtractionsSetNotBorrow
  refine ⟨encodes_opcodeRow (.sub 0 0), encodes_opcodeRow (.subn 0 0), fun x y s => ?sub, fun x y s => ?subn⟩
  case sub =>
    obtain ⟨difference, notBorrow⟩ := getV_setFlagThen_sub s x (s.getV x) (s.getV y)
    exact ⟨_, exec_of_noFault rfl, difference, notBorrow, nextPc_of_pc_eq rfl, onlyRegs_effectOf rfl⟩
  case subn =>
    obtain ⟨difference, notBorrow⟩ := getV_setFlagThen_sub s x (s.getV y) (s.getV x)
    exact ⟨_, exec_of_noFault rfl, difference, notBorrow, nextPc_of_pc_eq rfl, onlyRegs_effectOf rfl⟩

/-- Settles O45: Vx takes itself shifted by one, and VF, where it is not Vx, the bit shifted out. -/
theorem shiftsSetShiftedOutBit : Obligations.ShiftsSetShiftedOutBit := by
  unfold Obligations.ShiftsSetShiftedOutBit
  refine ⟨encodes_opcodeRow (.shr 0), encodes_opcodeRow (.shl 0), fun x s => ?shr, fun x s => ?shl⟩
  case shr =>
    have result : (effectOf (.shr x) s).getV x = s.getV x >>> 1 := s.getV_setFlagThen_self _ x _
    have flag (notF) : (effectOf (.shr x) s).getV 15 = lowBitFlag (s.getV x) := State.getV_vf_setFlagThen notF
    refine ⟨_, exec_of_noFault rfl, ?halved, fun notF => ?bitOut, nextPc_of_pc_eq rfl, onlyRegs_effectOf rfl⟩
    case halved => rw [result, BitVec.toNat_ushiftRight, Nat.shiftRight_one]
    case bitOut => rw [flag notF, lowBitFlag_toNat]
  case shl =>
    have result : (effectOf (.shl x) s).getV x = s.getV x <<< 1 := s.getV_setFlagThen_self _ x _
    have flag (notF) : (effectOf (.shl x) s).getV 15 = highBitFlag (s.getV x) := State.getV_vf_setFlagThen notF
    refine ⟨_, exec_of_noFault rfl, ?doubled, fun notF => ?bitOut, nextPc_of_pc_eq rfl, onlyRegs_effectOf rfl⟩
    case doubled => rw [result, BitVec.toNat_shiftLeft, Nat.shiftLeft_eq, Nat.pow_one]
    case bitOut => rw [flag notF, highBitFlag_toNat]

end Sys2Proof.Machine

/-! PROOF. The index register and the transfers through it (`43_index_memory.md` R200 to R205). A transfer is split on
whether all of its addresses are in memory: where they are, `faultOf` gives no fault and what is stored or loaded is read
off `effectOf`; where they are not, the fault is the one entered. -/

namespace Sys2Proof.Machine

/-! ### What I is set to -/

theorem onlyIndex_setI (s : State) (a : Word) : OnlyIndex s (s.setI a).advance := ⟨rfl, State.memRead_congr rfl⟩

/-- I plus a byte, modulo 65536 (R201, D12). -/
theorem Word.add_byte_toNat (a : Word) (b : Byte) :
    (a + b.setWidth 16).toNat = (a.toNat + b.toNat) % 65536 := by
  rw [BitVec.toNat_add, BitVec.toNat_setWidth_of_le (by decide)]

/-- Five times a byte is below 65536, so the address of its sprite does not wrap (R202, D13). -/
theorem glyphAddress_toNat (b : Byte) : (glyphAddress b).toNat = b.toNat * 5 := by
  have bLt := b.isLt
  exact (BitVec.toNat_ofNat _ _).trans (Nat.mod_eq_of_lt (show b.toNat * 5 < 65536 by omega))

/-- Settles O47: I takes the operand. -/
theorem loadIndexSetsI : Obligations.LoadIndexSetsI := by
  unfold Obligations.LoadIndexSetsI
  exact ⟨encodes_opcodeRow (.ldI 0), fun nnn s =>
    ⟨_, exec_of_noFault rfl, rfl, nextPc_of_pc_eq rfl, onlyIndex_setI s nnn⟩⟩

/-- Settles O48: I takes its wrapped sum with Vx, or the address of Vx's sprite. -/
theorem indexArithmetic : Obligations.IndexArithmetic := by
  unfold Obligations.IndexArithmetic
  refine ⟨encodes_opcodeRow (.addI 0), encodes_opcodeRow (.ldF 0), fun x s => ?add, fun x s => ?glyph⟩
  case add =>
    exact ⟨_, exec_of_noFault rfl, Word.add_byte_toNat s.i (s.getV x), nextPc_of_pc_eq rfl, onlyIndex_setI s _⟩
  case glyph =>
    exact ⟨_, exec_of_noFault rfl, glyphAddress_toNat (s.getV x), nextPc_of_pc_eq rfl, onlyIndex_setI s _⟩

/-! ### When a transfer faults (R272, R275) -/

section
variable {s : State} {x : Reg}

theorem faultOf_ldB_eq_none (fits : s.base + 2 < 4096) : faultOf (.ldB x) s = none := if_neg (Nat.not_le.2 fits)

theorem faultOf_ldB_past (past : 4096 ≤ s.base + 2) :
    faultOf (.ldB x) s = some (.memoryFault (max s.base 4096)) := if_pos past

theorem faultOf_ldMemStore_eq_none (fits : s.base + x.val < 4096) : faultOf (.ldMemStore x) s = none :=
  if_neg (Nat.not_le.2 fits)

theorem faultOf_ldMemStore_past (past : 4096 ≤ s.base + x.val) :
    faultOf (.ldMemStore x) s = some (.memoryFault (max s.base 4096)) := if_pos past

theorem faultOf_ldMemLoad_eq_none (fits : s.base + x.val < 4096) : faultOf (.ldMemLoad x) s = none :=
  if_neg (Nat.not_le.2 fits)

theorem faultOf_ldMemLoad_past (past : 4096 ≤ s.base + x.val) :
    faultOf (.ldMemLoad x) s = some (.memoryFault (max s.base 4096)) := if_pos past

/-! ### Decimal digits (R203) -/

/-- The digits of a byte, each in its range, make up the byte. -/
theorem bcdDigits_spec (b : Byte) : ∃ h z o : Byte, bcdDigits b = [h, z, o] ∧
    h.toNat * 100 + z.toNat * 10 + o.toNat = b.toNat ∧ h.toNat ≤ 2 ∧ z.toNat ≤ 9 ∧ o.toNat ≤ 9 := by
  have bLt := b.isLt
  refine ⟨_, _, _, rfl, ?_⟩
  simp only [BitVec.toNat_ofNat]
  omega

/-- After FX33 the digits of Vx stand at I, I + 1 and I + 2. -/
theorem memRead_effectOf_ldB (wf : s.mem.wf = true) (fits : s.base + 2 < 4096) {h z o : Byte}
    (digits : bcdDigits (s.getV x) = [h, z, o]) :
    (effectOf (.ldB x) s).memRead s.base = .ok h ∧ (effectOf (.ldB x) s).memRead (s.base + 1) = .ok z ∧
    (effectOf (.ldB x) s).memRead (s.base + 2) = .ok o := by
  have stored {k : Nat} (lt : k < 3) :
      (effectOf (.ldB x) s).memRead (s.base + k) = .ok [h, z, o][k] := by
    rw [effectOf, digits]
    exact State.memRead_setBytes wf fits lt
  exact ⟨stored (k := 0) (by decide), stored (k := 1) (by decide), stored (k := 2) (by decide)⟩

theorem memRead_effectOf_ldB_outside (wf : s.mem.wf = true) (fits : s.base + 2 < 4096) {a : Nat}
    (out : a < s.base ∨ s.base + 2 < a) : (effectOf (.ldB x) s).memRead a = s.memRead a :=
  State.memRead_setBytes_outside wf fits out

/-! ### Runs of registers (R204, R205) -/

/-- FX55 leaves every address outside I to I + x as it was (R204). -/
theorem memRead_effectOf_ldMemStore_outside (wf : s.mem.wf = true) (fits : s.base + x.val < 4096) {a : Nat}
    (out : a < s.base ∨ s.base + x.val < a) : (effectOf (.ldMemStore x) s).memRead a = s.memRead a := by
  have len := s.getVs_length x
  exact State.memRead_setBytes_outside wf (by omega) (by omega)

/-- FX65 leaves in Vk the byte at I + k (R205). -/
theorem memRead_eq_getV_effectOf_ldMemLoad (fits : s.base + x.val < 4096) {k : Reg} (le : k.val ≤ x.val) :
    s.memRead (s.base + k.val) = .ok ((effectOf (.ldMemLoad x) s).getV k) := by
  rw [getV_effectOf_ldMemLoad, if_pos le]
  exact State.memRead_ok (by omega)

theorem effectOf_ldMemLoad_pc : (effectOf (.ldMemLoad x) s).pc = s.pc + 2 :=
  congrArg (· + 2) (s.setVs_pc 0 (s.bytesAtI (x.val + 1)))

/-- FX65 changes nothing but registers and PC, I with the rest (R205, D11). -/
theorem effectOf_ldMemLoad_frame :
    effectOf (.ldMemLoad x) s =
      { s with v := (effectOf (.ldMemLoad x) s).v, pc := (effectOf (.ldMemLoad x) s).pc } := by
  rw [effectOf_ldMemLoad_pc]
  exact congrArg State.advance (s.setVs_spec 0 (s.bytesAtI (x.val + 1))).1

end

/-- Settles O49: with I + 2 in memory the three digits are stored, and otherwise FX33 faults. -/
theorem bcdStoresDigits : Obligations.BcdStoresDigits := by
  unfold Obligations.BcdStoresDigits
  refine ⟨encodes_opcodeRow (.ldB 0), fun x s wf fits => ?stores, fun x s past => ?faults⟩
  case stores =>
    obtain ⟨h, z, o, digits, value⟩ := bcdDigits_spec (s.getV x)
    obtain ⟨hundreds, tens, ones⟩ := memRead_effectOf_ldB wf fits digits
    exact ⟨_, exec_of_noFault (faultOf_ldB_eq_none fits), ⟨h, z, o, hundreds, tens, ones, value⟩,
      fun _ out => memRead_effectOf_ldB_outside wf fits out, nextPc_of_pc_eq rfl, rfl⟩
  case faults => exact exec_of_fault (faultOf_ldB_past past)

/-- Settles O50: with I + x in memory V0 to Vx are stored, and otherwise FX55 faults. -/
theorem storeWritesRegisters : Obligations.StoreWritesRegisters := by
  unfold Obligations.StoreWritesRegisters
  refine ⟨encodes_opcodeRow (.ldMemStore 0), fun x s wf fits => ?stores, fun x s past => ?faults⟩
  case stores =>
    have noFault := faultOf_ldMemStore_eq_none fits
    exact ⟨_, exec_of_noFault noFault, fun _ le => memRead_effectOf_ldMemStore wf noFault le,
      fun _ out => memRead_effectOf_ldMemStore_outside wf fits out, nextPc_of_pc_eq rfl, rfl⟩
  case faults => exact exec_of_fault (faultOf_ldMemStore_past past)

/-- Settles O51: with I + x in memory V0 to Vx are loaded, and otherwise FX65 faults. -/
theorem loadReadsRegisters : Obligations.LoadReadsRegisters := by
  unfold Obligations.LoadReadsRegisters
  refine ⟨encodes_opcodeRow (.ldMemLoad 0), fun x s fits => ?loads, fun x s past => ?faults⟩
  case loads =>
    exact ⟨_, exec_of_noFault (faultOf_ldMemLoad_eq_none fits), fun _ le => memRead_eq_getV_effectOf_ldMemLoad fits le,
      nextPc_of_pc_eq effectOf_ldMemLoad_pc, onlyRegs_effectOf effectOf_ldMemLoad_frame⟩
  case faults => exact exec_of_fault (faultOf_ldMemLoad_past past)

/-- Settles O52: the load reads at I + k the byte of Vk that the store left there. -/
theorem storeThenLoadRestores : Obligations.StoreThenLoadRestores := by
  unfold Obligations.StoreThenLoadRestores
  intro x s t u w wf fits store mem index load k le
  have base : u.base = s.base := congrArg BitVec.toNat index
  have noFault := faultOf_ldMemStore_eq_none fits
  have fitsLoad : u.base + x.val < 4096 := base ▸ fits
  rw [exec_of_noFault noFault] at store
  rw [exec_of_noFault (faultOf_ldMemLoad_eq_none fitsLoad)] at load
  cases store
  cases load
  have restored : Except.ok ((effectOf (.ldMemLoad x) u).getV k) = Except.ok (s.getV k) :=
    calc Except.ok ((effectOf (.ldMemLoad x) u).getV k)
      _ = u.memRead (u.base + k.val) := (memRead_eq_getV_effectOf_ldMemLoad fitsLoad le).symm
      _ = (effectOf (.ldMemStore x) s).memRead (s.base + k.val) := by rw [base, State.memRead_congr mem]
      _ = .ok (s.getV k) := memRead_effectOf_ldMemStore wf noFault le
  exact Except.ok.inj restored

end Sys2Proof.Machine

/-! PROOF. The display (`44_display.md` R230 to R233). What a draw does to a pixel and to VF is said by `rowsCover` and
`rowsHit` of the rows it reads; these are tied to the set bits of the rows, and so to `SpriteCovers`. -/

namespace Sys2Proof.Machine

/-! ### What changes the display -/

/-- No instruction but 00E0 and DXYN has an effect on the display (R233). -/
theorem effectOf_disp_frame {i : Instr} (s : State) (notCls : i ≠ .cls) (notDrw : ∀ x y n, i ≠ .drw x y n) :
    (effectOf i s).disp = s.disp := by
  cases i with
  | cls => exact absurd rfl notCls
  | drw x y n => exact absurd rfl (notDrw x y n)
  | ldVxK x => obtain ⟨k, -, e⟩ | ⟨-, e⟩ := effectOf_ldVxK_cases x s <;> simp [e]
  | ldMemLoad x => exact State.setVs_disp _ _ _
  | _ => rfl

/-- Settles O24: a fault keeps the display, and so does every effect but those of 00E0 and DXYN. -/
theorem onlyClsAndDrwChangeTheDisplay : Obligations.OnlyClsAndDrwChangeTheDisplay := by
  unfold Obligations.OnlyClsAndDrwChangeTheDisplay
  intro i s t e notCls notDrw
  exact exec_induction (P := fun t => t.disp = s.disp) e (fun _ => rfl) (effectOf_disp_frame s notCls notDrw)

/-- Settles O53: the effect is the clear display and the next PC. -/
theorem clsClearsDisplay : Obligations.ClsClearsDisplay := by
  unfold Obligations.ClsClearsDisplay
  exact ⟨encodes_opcodeRow .cls, fun s => ⟨_, exec_of_noFault rfl, fun x y _ _ => pixel_clearDisplay x y,
    nextPc_of_pc_eq rfl, rfl, State.memRead_congr rfl⟩⟩

/-! ### The set bits of a sprite's rows (R232) -/

/-- Row r of a sprite, from the top, has a set bit in column c, from the left (D14). -/
def SetBit (rows : List Byte) (r c : Nat) : Prop := ∃ b, rows[r]? = some b ∧ c < 8 ∧ spriteBit b c = true

/-- A set bit of a sprite lies in its first row or in the rows below. -/
theorem exists_setBit_cons {row : Byte} {rows : List Byte} {P : Nat → Nat → Prop} :
    (∃ r c, SetBit (row :: rows) r c ∧ P r c) ↔
      (∃ c < 8, spriteBit row c = true ∧ P 0 c) ∨ ∃ r c, SetBit rows r c ∧ P (r + 1) c := by
  rw [← Nat.or_exists_add_one]
  simp only [SetBit, List.getElem?_cons_zero, List.getElem?_cons_succ, Option.some.injEq, exists_eq_left', and_assoc]

/-- The rows cover a pixel exactly when some set bit falls on it. -/
theorem rowsCover_iff {x0 y px py : Nat} {rows : List Byte} :
    rowsCover x0 y rows px py = true ↔
      ∃ r c, SetBit rows r c ∧ px % 64 = (x0 + c) % 64 ∧ py % 32 = (y + r) % 32 := by
  induction rows generalizing y with
  | nil => simp [rowsCover, SetBit]
  | cons row rows ih =>
    have below (r : Nat) : y + 1 + r = y + (r + 1) := by omega
    simp only [exists_setBit_cons, rowsCover, Bool.or_eq_true, ih, below]
    refine or_congr_left ?_
    simp only [rowCovers, Bool.and_eq_true, decide_eq_true_eq, List.any_eq_true, List.mem_range, Nat.add_zero]
    constructor
    · rintro ⟨hy, c, lt, bit, hx⟩
      exact ⟨c, lt, bit, hx.symm, hy⟩
    · rintro ⟨c, lt, bit, hx, hy⟩
      exact ⟨hy, c, lt, bit, hx.symm⟩

/-- The rows hit a display exactly when some set bit falls on a pixel that is on. -/
theorem rowsHit_iff {x0 y : Nat} {d : Display} {rows : List Byte} :
    rowsHit x0 d y rows = true ↔ ∃ r c, SetBit rows r c ∧ pixel d (x0 + c) (y + r) = true := by
  induction rows generalizing y with
  | nil => simp [rowsHit, SetBit]
  | cons row rows ih =>
    have below (r : Nat) : y + 1 + r = y + (r + 1) := by omega
    simp only [exists_setBit_cons, rowsHit, Bool.or_eq_true, ih, below, List.any_eq_true, List.mem_range,
      Bool.and_eq_true, Nat.add_zero]

/-- A pixel's coordinates are taken modulo the screen's width and height (R230). -/
theorem pixel_mod (d : Display) (x y : Nat) : pixel d (x % 64) (y % 32) = pixel d x y := by
  simp only [pixel, Nat.mod_mod]

/-! ### A draw by the pixels its sprite covers (R232) -/

/-- The sprite of n bytes at I, drawn at the coordinates in Vx and Vy, covers a pixel. `State.covers_iff` ties it to
`SpriteCovers`. -/
def State.covers (s : State) (x y : Reg) (n px py : Nat) : Bool :=
  rowsCover (s.getV x).toNat (s.getV y).toNat (s.bytesAtI n) px py

/-- That sprite covers a pixel that is on. `State.collides_iff` ties it to `SpriteCovers`. -/
def State.collides (s : State) (x y : Reg) (n : Nat) : Bool :=
  rowsHit (s.getV x).toNat s.disp (s.getV y).toNat (s.bytesAtI n)

section
variable {s : State} {x y : Reg}

/-- A covered pixel is one of the screen's. -/
theorem SpriteCovers.onScreen {n px py : Nat} (h : SpriteCovers s x y n px py) : px < 64 ∧ py < 32 := by
  obtain ⟨r, c, b, -, -, -, -, rfl, rfl⟩ := h
  exact ⟨Nat.mod_lt _ (by decide), Nat.mod_lt _ (by decide)⟩

/-- The bytes through I are what reads of their addresses give, where all are in memory. -/
theorem State.bytesAtI_getElem?_eq_some {n r : Nat} {b : Byte} (fits : n = 0 ∨ s.base + n ≤ 4096) :
    (s.bytesAtI n)[r]? = some b ↔ r < n ∧ s.memRead (s.base + r) = .ok b := by
  by_cases lt : r < n
  · have inMemory : s.base + r < 4096 := by omega
    simp [State.bytesAtI, State.memRead_ok inMemory, lt]
  · simp [State.bytesAtI, lt]

theorem spriteCovers_iff_setBit {n px py : Nat} (fits : n = 0 ∨ s.base + n ≤ 4096) :
    SpriteCovers s x y n px py ↔ ∃ r c, SetBit (s.bytesAtI n) r c ∧
      px = ((s.getV x).toNat + c) % 64 ∧ py = ((s.getV y).toNat + r) % 32 := by
  simp only [SetBit, State.bytesAtI_getElem?_eq_some fits]
  constructor
  · rintro ⟨r, c, b, hr, hc, read, bit, hx, hy⟩
    exact ⟨r, c, ⟨b, ⟨hr, read⟩, hc, bit⟩, hx, hy⟩
  · rintro ⟨r, c, ⟨b, ⟨hr, read⟩, hc, bit⟩, hx, hy⟩
    exact ⟨r, c, b, hr, hc, read, bit, hx, hy⟩

theorem State.covers_iff {n px py : Nat} (fits : n = 0 ∨ s.base + n ≤ 4096) (hx : px < 64) (hy : py < 32) :
    s.covers x y n px py = true ↔ SpriteCovers s x y n px py := by
  rw [State.covers, rowsCover_iff, spriteCovers_iff_setBit fits, Nat.mod_eq_of_lt hx, Nat.mod_eq_of_lt hy]

theorem State.collides_iff {n : Nat} (fits : n = 0 ∨ s.base + n ≤ 4096) :
    s.collides x y n = true ↔ ∃ px py, SpriteCovers s x y n px py ∧ pixel s.disp px py = true := by
  rw [State.collides, rowsHit_iff]
  simp only [spriteCovers_iff_setBit fits]
  constructor
  · rintro ⟨r, c, bit, on⟩
    exact ⟨_, _, ⟨r, c, bit, rfl, rfl⟩, (pixel_mod _ _ _).trans on⟩
  · rintro ⟨_, _, ⟨r, c, bit, rfl, rfl⟩, on⟩
    exact ⟨r, c, bit, (pixel_mod _ _ _).symm.trans on⟩

/-- A sprite collides with nothing exactly when every pixel it covers is off. -/
theorem State.collides_eq_false_iff {n : Nat} (fits : n = 0 ∨ s.base + n ≤ 4096) :
    s.collides x y n = false ↔ ∀ px py, SpriteCovers s x y n px py → pixel s.disp px py = false := by
  rw [← Bool.not_eq_true, State.collides_iff fits]
  simp only [not_exists, not_and, Bool.not_eq_true]

/-- A sprite has at most 15 rows, so none wraps onto another, and `drawRows_spec` gives what drawing them does. -/
theorem drawRows_bytesAtI (s : State) (x0 y0 : Nat) (n : Fin 16) (d : Display) :
    (∀ px py, pixel (drawRows x0 y0 (s.bytesAtI n.val) (d, false)).1 px py =
      (pixel d px py ^^ rowsCover x0 y0 (s.bytesAtI n.val) px py)) ∧
    (drawRows x0 y0 (s.bytesAtI n.val) (d, false)).2 = rowsHit x0 d y0 (s.bytesAtI n.val) := by
  have short : (s.bytesAtI n.val).length ≤ 32 := by rw [State.bytesAtI_length]; omega
  exact drawRows_spec x0 y0 _ short d false

/-- A draw inverts the covered pixels and no other (R232). -/
theorem pixel_effectOf_drw (s : State) (x y : Reg) (n : Fin 16) (px py : Nat) :
    pixel (effectOf (.drw x y n) s).disp px py = (pixel s.disp px py ^^ s.covers x y n.val px py) :=
  (drawRows_bytesAtI s _ _ n s.disp).1 px py

/-- A draw leaves in VF whether a covered pixel was on (R232). -/
theorem getV_vf_effectOf_drw (s : State) (x y : Reg) (n : Fin 16) :
    (effectOf (.drw x y n) s).getV 15 = flagOf (s.collides x y n.val) :=
  calc (effectOf (.drw x y n) s).getV 15
    _ = flagOf (drawRows _ _ (s.bytesAtI n.val) (s.disp, false)).2 := (s.getV_drawSprite x y 15 _).trans (if_pos rfl)
    _ = flagOf (s.collides x y n.val) := congrArg flagOf (drawRows_bytesAtI s _ _ n s.disp).2

variable {n : Fin 16}

theorem faultOf_drw_eq_none (fits : n.val = 0 ∨ s.base + n.val ≤ 4096) : faultOf (.drw x y n) s = none :=
  if_neg (show ¬(1 ≤ n.val ∧ 4096 ≤ s.base + n.val - 1) by omega)

theorem faultOf_drw_past (pos : 1 ≤ n.val) (past : 4096 < s.base + n.val) :
    faultOf (.drw x y n) s = some (.memoryFault (max s.base 4096)) :=
  if_pos (show 1 ≤ n.val ∧ 4096 ≤ s.base + n.val - 1 by omega)

/-- A draw leaves I, memory and every register but VF, so the same draw again covers the same pixels. -/
theorem covers_effectOf_drw (notFx : x ≠ 15) (notFy : y ≠ 15) (px py : Nat) :
    (effectOf (.drw x y n) s).covers x y n.val px py = s.covers x y n.val px py := by
  have vx : (effectOf (.drw x y n) s).getV x = s.getV x := getV_effectOf_of_not_writesReg s notFx
  have vy : (effectOf (.drw x y n) s).getV y = s.getV y := getV_effectOf_of_not_writesReg s notFy
  rw [State.covers, vx, vy]
  rfl

/-- The same draw again inverts the same pixels back (R232). -/
theorem effectOf_drw_twice_disp (notFx : x ≠ 15) (notFy : y ≠ 15) :
    (effectOf (.drw x y n) (effectOf (.drw x y n) s)).disp = s.disp :=
  Display.ext_pixel fun px py _ _ => by
    rw [pixel_effectOf_drw, pixel_effectOf_drw, covers_effectOf_drw notFx notFy, Bool.xor_assoc, Bool.xor_self,
      Bool.xor_false]

/-- On a clear display no covered pixel is on. -/
theorem collides_of_clear (fits : n.val = 0 ∨ s.base + n.val ≤ 4096) (clear : s.disp = clearDisplay) :
    s.collides x y n.val = false :=
  (State.collides_eq_false_iff fits).2 fun px py _ => by rw [clear, pixel_clearDisplay]

/-- Drawn on a clear display, a sprite that covers a pixel has turned it on, so the same draw again collides. -/
theorem collides_effectOf_drw_of_clear (notFx : x ≠ 15) (notFy : y ≠ 15) (fits : n.val = 0 ∨ s.base + n.val ≤ 4096)
    (clear : s.disp = clearDisplay) {px py : Nat} (cov : SpriteCovers s x y n.val px py) :
    (effectOf (.drw x y n) s).collides x y n.val = true := by
  obtain ⟨hx, hy⟩ := cov.onScreen
  have covered : s.covers x y n.val px py = true := (State.covers_iff fits hx hy).2 cov
  have fitsAgain : n.val = 0 ∨ (effectOf (.drw x y n) s).base + n.val ≤ 4096 := fits
  have again : SpriteCovers (effectOf (.drw x y n) s) x y n.val px py :=
    (State.covers_iff fitsAgain hx hy).1 ((covers_effectOf_drw notFx notFy px py).trans covered)
  refine (State.collides_iff fitsAgain).2 ⟨px, py, again, ?_⟩
  rw [pixel_effectOf_drw, clear, pixel_clearDisplay, covered]
  rfl

end

/-- Settles O54: with all rows in memory the effect inverts the covered pixels and flags a collision, and otherwise
DXYN faults. -/
theorem drawXorsSprite : Obligations.DrawXorsSprite := by
  unfold Obligations.DrawXorsSprite
  refine ⟨encodes_opcodeRow (.drw 0 0 0), fun x y n s fits => ?draws, fun x y n s pos past => ?faults⟩
  case draws =>
    refine ⟨_, exec_of_noFault (faultOf_drw_eq_none fits), fun px py hx hy cov => ?inverted,
      fun px py hx hy uncov => ?kept, fun ⟨px, py, _, _, cov, on⟩ => ?hit, fun allOff => ?missed,
      fun r notF => getV_effectOf_of_not_writesReg s notF, nextPc_of_pc_eq rfl, State.memRead_congr rfl, rfl⟩
    case inverted =>
      rw [pixel_effectOf_drw, (State.covers_iff fits hx hy).2 cov, Bool.xor_true]
    case kept =>
      have notCovered := Bool.eq_false_iff.2 (mt (State.covers_iff fits hx hy).1 uncov)
      rw [pixel_effectOf_drw, notCovered, Bool.xor_false]
    case hit =>
      rw [getV_vf_effectOf_drw, (State.collides_iff fits).2 ⟨px, py, cov, on⟩]
      rfl
    case missed =>
      have noHit : s.collides x y n.val = false := (State.collides_eq_false_iff fits).2 fun px py cov =>
        have ⟨hx, hy⟩ := cov.onScreen
        allOff px py hx hy cov
      rw [getV_vf_effectOf_drw, noHit]
      rfl
  case faults => exact exec_of_fault (faultOf_drw_past pos past)

/-- Settles O55: neither draw faults; the second inverts the first's pixels back, and collides with them where the
display was clear. -/
theorem drawTwiceRestoresDisplay : Obligations.DrawTwiceRestoresDisplay := by
  unfold Obligations.DrawTwiceRestoresDisplay
  intro x y n s t u notFx notFy le first second
  have fits : n.val = 0 ∨ s.base + n.val ≤ 4096 := .inr le
  have fitsAgain : n.val = 0 ∨ (effectOf (.drw x y n) s).base + n.val ≤ 4096 := fits
  rw [exec_of_noFault (faultOf_drw_eq_none fits)] at first
  cases first
  rw [exec_of_noFault (faultOf_drw_eq_none fitsAgain)] at second
  cases second
  refine ⟨effectOf_drw_twice_disp notFx notFy, fun clear => ⟨?_, fun ⟨px, py, cov⟩ => ?_⟩⟩
  · rw [getV_vf_effectOf_drw, collides_of_clear fits clear]
    rfl
  · rw [getV_vf_effectOf_drw, collides_effectOf_drw_of_clear notFx notFy fits clear cov]
    rfl

end Sys2Proof.Machine

/-! PROOF. The keys and the timers (`45_keys_timers.md` R250 to R256). The key skips are split on whether Vx names a key,
as `faultOf` is, and FX0A on what the smallest pressed key is; the timer transfers complete in every state. -/

namespace Sys2Proof.Machine

section
variable {s : State} {x : Reg}

/-! ### The key skips (R250, R251, D15) -/

theorem faultOf_skp_eq_none (named : (s.getV x).toNat < 16) : faultOf (.skp x) s = none := if_neg (Nat.not_le.2 named)

theorem faultOf_skp_unnamed (unnamed : 16 ≤ (s.getV x).toNat) :
    faultOf (.skp x) s = some (.keyIndexFault (s.getV x)) := if_pos unnamed

theorem faultOf_sknp_eq_none (named : (s.getV x).toNat < 16) : faultOf (.sknp x) s = none := if_neg (Nat.not_le.2 named)

theorem faultOf_sknp_unnamed (unnamed : 16 ≤ (s.getV x).toNat) :
    faultOf (.sknp x) s = some (.keyIndexFault (s.getV x)) := if_pos unnamed

/-! ### The wait for a key (R253, D16) -/

/-- With a key pressed FX0A takes the smallest one. -/
theorem effectOf_ldVxK_of_firstKey {k : Nat} (first : s.firstKey = some k) :
    effectOf (.ldVxK x) s = (s.setV x (BitVec.ofNat 8 k)).advance := by
  simp only [effectOf, first]

end

/-- Settles O56: below 16 both effects are conditional jumps, on the key's bit and on its complement, and from 16 up
both instructions fault. -/
theorem skipsOnKey : Obligations.SkipsOnKey := by
  unfold Obligations.SkipsOnKey
  refine ⟨encodes_opcodeRow (.skp 0), encodes_opcodeRow (.sknp 0), fun x s named => ?skp, fun x s named => ?sknp,
    fun x s unnamed => ?faults⟩
  case skp => exact ⟨_, exec_of_noFault (faultOf_skp_eq_none named), skipPc_jump s Iff.rfl, onlyPc_jump s _⟩
  case sknp =>
    exact ⟨_, exec_of_noFault (faultOf_sknp_eq_none named), skipPc_jump s (Bool.not_eq_true' _).to_iff,
      onlyPc_jump s _⟩
  case faults => exact ⟨exec_of_fault (faultOf_skp_unnamed unnamed), exec_of_fault (faultOf_sknp_unnamed unnamed)⟩

/-- Settles O59: a pressed key below which none is pressed is the first one, and its number fits a byte; with none
pressed the latch is zero. -/
theorem waitTakesSmallestKey : Obligations.WaitTakesSmallestKey := by
  unfold Obligations.WaitTakesSmallestKey
  refine ⟨encodes_opcodeRow (.ldVxK 0), fun x s k lt pressed smallest => ?taken, fun x s released => ?held⟩
  case taken =>
    have effect : effectOf (.ldVxK x) s = (s.setV x (BitVec.ofNat 8 k)).advance :=
      effectOf_ldVxK_of_firstKey (State.firstKey_eq_some.2 ⟨lt, pressed, smallest⟩)
    have key : ((effectOf (.ldVxK x) s).getV x).toNat = k := by
      rw [effect, State.getV_advance, State.getV_setV_self]
      exact (BitVec.toNat_ofNat k 8).trans (Nat.mod_eq_of_lt (lt.trans (by decide)))
    exact ⟨_, exec_of_noFault rfl, key, nextPc_of_pc_eq (by rw [effect]; rfl), onlyRegs_effectOf (by rw [effect]; rfl)⟩
  case held => exact exec_ldVxK_of_no_key x (keys_eq_zero_iff.2 released)

/-! ### The timers (R252, R254, R255) -/

/-- Settles O57: Vx takes the delay timer, and R23 lists no other register. -/
theorem readDelayTimer : Obligations.ReadDelayTimer := by
  unfold Obligations.ReadDelayTimer
  exact ⟨encodes_opcodeRow (.ldVxDt 0), fun x s =>
    ⟨_, exec_of_noFault rfl, s.getV_setV_self x s.dt, nextPc_of_pc_eq rfl, onlyRegs_effectOf rfl⟩⟩

/-- Settles O58: each effect is one timer's write and the next PC; the audio gate is the tick's (D18). -/
theorem writeTimers : Obligations.WriteTimers := by
  unfold Obligations.WriteTimers
  refine ⟨encodes_opcodeRow (.ldDt 0), encodes_opcodeRow (.ldSt 0), fun x s => ?delay, fun x s => ?sound⟩
  case delay => exact ⟨_, exec_of_noFault rfl, rfl, nextPc_of_pc_eq rfl, State.memRead_congr rfl, rfl⟩
  case sound => exact ⟨_, exec_of_noFault rfl, rfl, nextPc_of_pc_eq rfl, State.memRead_congr rfl, rfl⟩

end Sys2Proof.Machine

/-! PROOF. The faults, and the tick (`60_exceptions.md` R270 to R283). A faulting step is followed from the instruction
that faults through the counting, which a fault stops, to the step. -/

namespace Sys2Proof.Machine

/-! ### Precise faults (R270 to R272, D21) -/

/-- Settles O18: by whether the table gives a fault, which is then entered, or none, where the effect keeps STATUS. -/
theorem faultsAreThoseListed : Obligations.FaultsAreThoseListed := by
  unfold Obligations.FaultsAreThoseListed
  intro i s run
  cases table : faultOf i s with
  | some f => exact ⟨Faulted s f, exec_of_fault table, rfl⟩
  | none => exact ⟨effectOf i s, exec_of_noFault table, (effectOf_status i s).trans run⟩

/-- What a word decodes to, executed in a running state, stops the machine only by entering a fault. -/
theorem execDecoded_stopped {d : Decoded} {s u : State} (run : s.status = .running)
    (e : execDecoded d s = .next u) (stopped : u.status ≠ .running) : ∃ f, u = Faulted s f := by
  cases d with
  | unrecognized w => cases e; exact absurd run stopped
  | instr i =>
    obtain ⟨f, -, rfl⟩ | ⟨-, rfl⟩ := exec_cases e
    · exact ⟨f, rfl⟩
    · exact absurd ((effectOf_status i s).trans run) stopped

/-- A step that stops a running machine has entered a fault, of the fetch or of the execution, and counted nothing
(R120, R272). -/
theorem stepWith_stopped {p : Nat} {k : Keys} {s t : State} (run : s.status = .running)
    (e : stepWith p k s = .next t) (stopped : t.status ≠ .running) : ∃ f, t = Faulted s f := by
  obtain ⟨f, a, faulted, -⟩ | ⟨f, -, -, step⟩ | ⟨w, -, -, step⟩ := stepWith_cases p k s
  · rw [run] at faulted; cases faulted
  · rw [step] at e; cases e; exact ⟨f, rfl⟩
  · rw [step] at e
    obtain ⟨u, executed, rfl⟩ := countOutcome_eq_next e
    rw [State.afterInstr_status] at stopped
    obtain ⟨f, rfl⟩ := execDecoded_stopped run executed stopped
    exact ⟨f, State.afterInstr_faulted p k rfl⟩

/-- Settles O17: a step is `stepWith` for the open period and the next key snapshot. -/
theorem faultingStepChangesOnlyStatus : Obligations.FaultingStepChangesOnlyStatus := by
  unfold Obligations.FaultingStepChangesOnlyStatus
  exact fun _ _ run e stopped => stepWith_stopped run e stopped

/-! ### The tick and the presented copy (R279 to R283, D18) -/

/-- Settles O21: each timer counts down, and the gate follows the sound timer after its decrement. -/
theorem tickCountsDownGatesAndLatches : Obligations.TickCountsDownGatesAndLatches := by
  unfold Obligations.TickCountsDownGatesAndLatches
  exact fun s _ => ⟨countDown_toNat s.dt, countDown_toNat s.st, countDown_ne_zero, rfl, rfl⟩

/-- Bit y * 64 + x of `fb_out` is pixel (x, y) of the display last presented (R282). -/
theorem State.fbOutBit_eq_pixel (s : State) {x : Nat} (y : Nat) (lt : x < 64) :
    s.fbOutBit (y * 64 + x) = pixel s.fbOut x y := by
  have col : (y * 64 + x) % 64 = x := by omega
  have row : (y * 64 + x) / 64 = y := by omega
  rw [State.fbOutBit, col, row]

/-- Settles O22: presenting copies the display to `fb_out`, of which that bit is the pixel. -/
theorem presentedCopyIsTheDisplay : Obligations.PresentedCopyIsTheDisplay := by
  unfold Obligations.PresentedCopyIsTheDisplay
  exact fun s => ⟨fun _ y lt _ => s.presentDisplay.fbOutBit_eq_pixel y lt, rfl⟩

end Sys2Proof.Machine
